-- ==== Sys2Proof/Word.lean ====
section
/-! DEFINITION. The word types of the block: a byte, a host address and a host transaction word. -/

namespace Sys2Proof

/-- One byte: every frame unit and every host access is one (spec/00_scope.md R9, 20_memory.md R75). -/
abbrev Byte := BitVec 8

/-- A 16-bit host byte address (spec/20_memory.md R70). -/
abbrev Addr := BitVec 16

/-- A 32-bit host transaction word, HTW (spec/30_encoding.md R90). -/
abbrev Htw := BitVec 32

end Sys2Proof
end

