-- ==== Sys2Proof/Config.lean ====
section
/-! DEFINITION. What is fixed when a block is configured (the catalog's types, the default response marker),
and the one value the spec leaves open, a buffer byte nothing has written. -/

namespace Sys2Proof

/-- A descriptor's `fixed` part: a body length 0..255, or VARIABLE, "trust the frame length field"
(spec/44_fields.md R180). -/
inductive BodyLength where
  | fixed (n : Byte)
  | anyLength
  deriving DecidableEq, Repr

/-- A `FieldSpec` (spec/44_fields.md R180).  Its ranges are checks of R181, not part of the type:
`off` 0..254, `wid` 1..4, `shift` 0..63.  `mant` is the two's complement pattern of the scale mantissa. -/
structure FieldSpec where
  off   : Nat
  wid   : Nat
  sgn   : Bool
  mant  : BitVec 32
  shift : Nat
  fmt   : Byte
  deriving DecidableEq, Repr

/-- A command descriptor (spec/44_fields.md R180), keyed by opcode (D16). -/
structure Descriptor where
  opcode : Byte
  fixed  : BodyLength
  fields : List FieldSpec
  deriving DecidableEq, Repr

/-- The default of the parameter RESP_MARKER (spec/00_scope.md R5, 90_conflicts.md C1). -/
def Config.respMarkerDefault : Byte := 0x3E#8

/-- The catalog of `State.reset`.  DESIGN CHOICE, log 3: the spec leaves CATALOG open (D37); the empty list passes
every check of R181.  A block with another catalog starts from `configure`. -/
def Config.catalogDefault : List Descriptor := []

/-- FREE VALUE (log 2): the byte that the buffer cell at host address `a` holds while nothing has written it
since the reset numbered `epoch` (spec/93_implementation_defined.md U5, "any value").  It has no body:
nothing can be proved of which byte it is. -/
opaque Config.unwrittenByte (epoch a : Nat) : Byte

end Sys2Proof
end

