-- ==== Sys2Proof/Syntax.lean ====
section
/-! DEFINITION. The instructions: one constructor per row of spec/opcode_table.json, that is one per kind of
host transaction (spec/30_encoding.md R90, R91, R96). -/

namespace Sys2Proof

/-- A decoded host transaction. -/
inductive Instr where
  /-- No transaction; the 30 bits below KIND are ignored (spec/40_host_access.md R120). -/
  | idle (ignored : BitVec 30)
  /-- Host read of the byte at `a` (R121). -/
  | rd (a : Addr)
  /-- Host write of `d` to `a`, for `a` other than 0x0000 and 0x0008 (R122). -/
  | wr (a : Addr) (d : Byte)
  /-- A write of the undefined command code `c` to CMD (R123). -/
  | illcmd (c : Byte)
  /-- Command 0x01: clear the receiver and the decoded-field count (R124). -/
  | clr
  /-- Command 0x02: end of input (spec/43_receiver.md R154). -/
  | rxeof
  /-- Command 0x03: encode a request frame (spec/42_encoder.md R140). -/
  | enc
  /-- Command 0x04: extract one field with explicit parameters (spec/44_fields.md R187). -/
  | fx
  /-- Command 0x05: decode every field of the expected opcode's descriptor (R188). -/
  | fdec
  /-- Receive one response byte (spec/43_receiver.md R152). -/
  | rxb (b : Byte)
  deriving DecidableEq, Repr

/-- An instruction's mnemonic as spec/opcode_table.json writes it. -/
def Instr.mnemonic : Instr → String
  | .idle _ => "IDLE"
  | .rd _ => "RD"
  | .wr _ _ => "WR"
  | .illcmd _ => "ILLCMD"
  | .clr => "CLR"
  | .rxeof => "RXEOF"
  | .enc => "ENC"
  | .fx => "FX"
  | .fdec => "FDEC"
  | .rxb _ => "RXB"

end Sys2Proof
end

