-- ==== Sys2Proof/WellFormed.lean ====
section
/-! DEFINITION. Which instructions some transaction word decodes to: the operand ranges that the spec gives an
instruction beyond the widths of its fields. -/

namespace Sys2Proof

/-- `WR` is a write to any address other than CMD (0x0000) and RXD (0x0008) (spec/40_host_access.md R122). -/
def wellFormedWrite (a : Addr) : Bool :=
  a != 0x0000#16 && a != 0x0008#16

/-- `ILLCMD` is a write to CMD of 0x00 or 0x06..0xFF (spec/30_encoding.md R96). -/
def wellFormedIllegalCode (c : Byte) : Bool :=
  c == 0x00#8 || decide (0x06#8 ≤ c)

/-- The well-formed instructions: those that stand for a transaction word. -/
def Instr.wellFormed : Instr → Bool
  | .idle _ => true
  | .rd _ => true
  | .wr a _ => wellFormedWrite a
  | .illcmd c => wellFormedIllegalCode c
  | .clr => true
  | .rxeof => true
  | .enc => true
  | .fx => true
  | .fdec => true
  | .rxb _ => true

end Sys2Proof
end

