-- ==== Sys2Proof/Decode.lean ====
section
/-! DEFINITION. Decoding a host transaction word (spec/30_encoding.md R90, R91, R96), total and rejecting by
name, the encoder written from the same table, and the rows of spec/opcode_table.json as data. -/

namespace Sys2Proof

/-- Why a word is refused (spec/30_encoding.md R91, R97 b).  The block's behaviour on such a word is not specified
(spec/93_implementation_defined.md U6). -/
inductive DecodeError where
  /-- KIND = 11. -/
  | illegalKind
  /-- RSV is not 0 on a write or a read. -/
  | reservedNotZero
  /-- DATA is not 0 on a read. -/
  | readDataNotZero
  deriving DecidableEq, Repr

/-- KIND, bits [31:30] (R90). -/
def htwKind (w : Htw) : BitVec 2 := w.extractLsb' 30 2

/-- RSV, bits [29:24]. -/
def htwRsv (w : Htw) : BitVec 6 := w.extractLsb' 24 6

/-- ADDR, bits [23:8]. -/
def htwAddr (w : Htw) : Addr := w.extractLsb' 8 16

/-- DATA, bits [7:0]. -/
def htwData (w : Htw) : Byte := w.extractLsb' 0 8

/-- Bits [29:0], ignored by IDLE (R91). -/
def htwIgnored (w : Htw) : BitVec 30 := w.extractLsb' 0 30

/-- A write of `c` to CMD (spec/30_encoding.md R96). -/
def decodeCommand (c : Byte) : Instr :=
  if c = 0x01#8 then .clr
  else if c = 0x02#8 then .rxeof
  else if c = 0x03#8 then .enc
  else if c = 0x04#8 then .fx
  else if c = 0x05#8 then .fdec
  else .illcmd c

/-- A write of `d` to `a`: the rows for CMD and RXD take priority over WR (R91). -/
def decodeWrite (a : Addr) (d : Byte) : Instr :=
  if a = 0x0000#16 then decodeCommand d
  else if a = 0x0008#16 then .rxb d
  else .wr a d

/-- The decoder of host transaction words (spec/30_encoding.md R91). -/
def decode (w : Htw) : Except DecodeError Instr :=
  if htwKind w = 0b00#2 then .ok (.idle (htwIgnored w))
  else if htwKind w = 0b11#2 then .error .illegalKind
  else if htwRsv w ≠ 0#6 then .error .reservedNotZero
  else if htwKind w = 0b01#2 then .ok (decodeWrite (htwAddr w) (htwData w))
  else if htwData w ≠ 0#8 then .error .readDataNotZero
  else .ok (.rd (htwAddr w))

/-- The word of the given fields, RSV being 0 (R90). -/
def htwOf (kind : BitVec 2) (a : Addr) (d : Byte) : Htw :=
  kind.setWidth 32 <<< 30 ||| a.setWidth 32 <<< 8 ||| d.setWidth 32

/-- The encoder: the word of a well-formed instruction (spec/30_encoding.md R90, R96, R101). -/
def encode : Instr → Htw
  | .idle ignored => ignored.setWidth 32
  | .rd a => htwOf 0b10#2 a 0x00#8
  | .wr a d => htwOf 0b01#2 a d
  | .illcmd c => htwOf 0b01#2 0x0000#16 c
  | .clr => htwOf 0b01#2 0x0000#16 0x01#8
  | .rxeof => htwOf 0b01#2 0x0000#16 0x02#8
  | .enc => htwOf 0b01#2 0x0000#16 0x03#8
  | .fx => htwOf 0b01#2 0x0000#16 0x04#8
  | .fdec => htwOf 0b01#2 0x0000#16 0x05#8
  | .rxb b => htwOf 0b01#2 0x0008#16 b

/-- The transaction word whose low `nbits` bits are those of `w`, every higher bit 0. -/
def wordOfBits (nbits w : Nat) : Htw := BitVec.ofNat 32 (w % 2 ^ nbits)

/-- What the decoder reads from the word that spec/opcode_table.json numbers as `w`. -/
def decodeTableWord (nbits w : Nat) : Option Instr :=
  match decode (wordOfBits nbits w) with
  | .ok i => some i
  | .error _ => none

/-- One row of spec/opcode_table.json. -/
structure TableRow where
  mnemonic : String
  mask     : Htw
  pattern  : Htw
  deriving DecidableEq, Repr

/-- The rows of spec/opcode_table.json, in its order. -/
def opcodeTable : List TableRow :=
  [⟨"IDLE", 0xC0000000#32, 0x00000000#32⟩,
   ⟨"RD", 0xFF0000FF#32, 0x80000000#32⟩,
   ⟨"WR", 0xFF000000#32, 0x40000000#32⟩,
   ⟨"ILLCMD", 0xFFFFFF00#32, 0x40000000#32⟩,
   ⟨"CLR", 0xFFFFFFFF#32, 0x40000001#32⟩,
   ⟨"RXEOF", 0xFFFFFFFF#32, 0x40000002#32⟩,
   ⟨"ENC", 0xFFFFFFFF#32, 0x40000003#32⟩,
   ⟨"FX", 0xFFFFFFFF#32, 0x40000004#32⟩,
   ⟨"FDEC", 0xFFFFFFFF#32, 0x40000005#32⟩,
   ⟨"RXB", 0xFFFFFF00#32, 0x40000800#32⟩]

/-- Whether a word matches a row. -/
def TableRow.fits (r : TableRow) (w : Htw) : Bool := w &&& r.mask == r.pattern

/-- How many bits are set in a row's mask. -/
def TableRow.weight (r : TableRow) : Nat :=
  ((List.range 32).filter fun k => r.mask.getLsbD k).length

/-- The heavier of two rows, the first where they weigh the same. -/
def heavierRow (best : Option TableRow) (r : TableRow) : Option TableRow :=
  match best with
  | none => some r
  | some b => if b.weight < r.weight then some r else some b

/-- Among the rows that match a word, the row with the most bits set in its mask (spec/30_encoding.md R91). -/
def mostSpecificRow (w : Htw) : Option TableRow :=
  (opcodeTable.filter fun r => r.fits w).foldl heavierRow none

end Sys2Proof
end

