-- ==== Sys2Proof/Machine/State.lean ====
section
/-! DEFINITION. The state of the block (spec/10_state.md R20 to R47) as plain data, the reasons a step can stop,
and the state after reset (spec/70_reset_and_hazards.md R250). -/

namespace Sys2Proof.Machine

/-- The status codes, in the order of their numbers 0 to 15 (spec/60_exceptions.md R220). -/
inductive StatusCode where
  | ok
  | unknownCommand
  | bodyTooLarge
  | truncatedFrame
  | badAck
  | badHeaderChecksum
  | badBodyChecksum
  | unexpectedBodyLength
  | fieldOutOfRange
  | unexpectedOpcode
  | responseTimeout
  | linkError
  | noFrame
  | rxClosed
  | badFieldSpec
  | illegalCommand
  deriving DecidableEq, Repr

/-- The six states of the receive FSM, in the order of their numbers 0 to 5 (spec/43_receiver.md R151).  The values
6 and 7 are not representable (spec/93_implementation_defined.md U13). -/
inductive RxState where
  | idle
  | hdr
  | body
  | ckb
  | done
  | err
  deriving DecidableEq, Repr

/-- What the host can present to the block between two steps (spec/70_reset_and_hazards.md R251, R262). -/
inductive HostEvent where
  /-- One host transaction word (spec/30_encoding.md R90). -/
  | transaction (w : Htw)
  /-- Reset, applied between two transactions (spec/70_reset_and_hazards.md R251). -/
  | reset
  deriving DecidableEq, Repr

/-- Why the machine stops with a fault. -/
inductive Fault where
  /-- Raised by RXB (`receiveByte`) when it would store a byte at an index that RXBUF does not have
  (RXCNT ≥ 260; spec/10_state.md R21, R42).  Safe: no reachable state has it (R48), and the machine stops. -/
  | rxBufferOverrun
  deriving DecidableEq, Repr

/-- Why the machine refuses a step. -/
inductive Refusal where
  /-- Raised by an arm of `exec` whose instruction has no meaning yet.  Safe.  No arm of this model does so. -/
  | notModelled (mnemonic : String)
  /-- Raised by `step` on a transaction word that does not decode (spec/30_encoding.md R91,
  spec/93_implementation_defined.md U6, treatment "refuse").  Safe. -/
  | illegalTransaction (e : DecodeError)
  /-- Raised by `step` in a state whose catalog fails a check of spec/44_fields.md R181: no block is built with it
  (spec/93_implementation_defined.md U8, treatment "refuse").  Safe. -/
  | illFormedCatalog
  deriving DecidableEq, Repr

/-- The bytes of the four buffers that something has written since reset, by host address, addresses strictly
rising.  An address that is not listed has no value of its own: it reads as the free value of log 2. -/
abbrev Memory := List Host.Cell

/-- The state of the block, with its configuration and the host's side of the bus. -/
structure State where
  /-- ARG (R24). -/
  arg : Byte
  /-- STATUS.CODE (R25). -/
  status : StatusCode
  /-- RXST.STATE (R26). -/
  rxState : RxState
  /-- RXST.RXX (R26). -/
  rxx : Bool
  /-- RXEC.CODE (R27). -/
  rxec : StatusCode
  /-- RXCNT (R28). -/
  rxcnt : BitVec 16
  /-- RXSUM, hidden (R46). -/
  rxsum : Byte
  /-- E_OPCODE (R30). -/
  eOpcode : Byte
  /-- E_LEN (R31). -/
  eLen : BitVec 16
  /-- TXLEN (R32). -/
  txlen : BitVec 16
  /-- X_OFF (R33). -/
  xOff : Byte
  /-- X_WID (R34). -/
  xWid : Byte
  /-- X_SGN.SGN (R35). -/
  xSgn : Bool
  /-- X_SHIFT.SHIFT (R36). -/
  xShift : BitVec 6
  /-- X_MANT (R37). -/
  xMant : BitVec 32
  /-- X_RAW (R38). -/
  xRaw : BitVec 32
  /-- X_RSH (R40). -/
  xRsh : BitVec 6
  /-- X_SCALED (R39). -/
  xScaled : BitVec 64
  /-- FCNT (R41). -/
  fcnt : Byte
  /-- RXBUF, EBUF, TXBUF and FOUT at their host addresses (R42 to R45). -/
  mem : Memory
  /-- The configuration parameter RESP_MARKER (spec/00_scope.md R5). -/
  respMarker : Byte
  /-- The configuration CATALOG (R47). -/
  catalog : List Descriptor
  /-- The model's own: what the host presents next, oldest first (log 1). -/
  pending : List HostEvent
  /-- The model's own: the bytes RDs have returned on rdata, oldest first (R121, R263; log 4). -/
  reads : List Byte
  /-- The model's own: how many resets have been applied, the index of the free value of log 2. -/
  epoch : Nat
  deriving DecidableEq, Repr

/-- The block right after reset (spec/70_reset_and_hazards.md R250, spec/10_state.md R24 to R46), with the default
RESP_MARKER and the empty catalog (log 3), nothing presented and nothing read. -/
def State.reset : State where
  arg := 0x00#8
  status := .ok
  rxState := .idle
  rxx := false
  rxec := .ok
  rxcnt := 0x0000#16
  rxsum := 0x00#8
  eOpcode := 0x00#8
  eLen := 0x0000#16
  txlen := 0x0000#16
  xOff := 0x00#8
  xWid := 0x01#8
  xSgn := false
  xShift := 0#6
  xMant := 0x00000001#32
  xRaw := 0x00000000#32
  xRsh := 0#6
  xScaled := 0x0000000000000000#64
  fcnt := 0x00#8
  mem := []
  respMarker := Config.respMarkerDefault
  catalog := Config.catalogDefault
  pending := []
  reads := []
  epoch := 0

end Sys2Proof.Machine
end

