-- ==== Sys2Proof/Machine/Flags.lean ====
section
/-! DEFINITION. The status codes and the three status registers as software reads them (spec/10_state.md R25 to
R27, spec/60_exceptions.md R220, R221). -/

namespace Sys2Proof.Machine

/-- The number of a status code (spec/60_exceptions.md R220). -/
def StatusCode.code : StatusCode → BitVec 4
  | .ok => 0#4
  | .unknownCommand => 1#4
  | .bodyTooLarge => 2#4
  | .truncatedFrame => 3#4
  | .badAck => 4#4
  | .badHeaderChecksum => 5#4
  | .badBodyChecksum => 6#4
  | .unexpectedBodyLength => 7#4
  | .fieldOutOfRange => 8#4
  | .unexpectedOpcode => 9#4
  | .responseTimeout => 10#4
  | .linkError => 11#4
  | .noFrame => 12#4
  | .rxClosed => 13#4
  | .badFieldSpec => 14#4
  | .illegalCommand => 15#4

/-- The number of an FSM state (spec/10_state.md R26). -/
def RxState.code : RxState → BitVec 3
  | .idle => 0#3
  | .hdr => 1#3
  | .body => 2#3
  | .ckb => 3#3
  | .done => 4#3
  | .err => 5#3

/-- STATUS as read: CODE in bits [3:0], bits [7:4] zero (R25). -/
def State.statusByte (s : State) : Byte := s.status.code.setWidth 8

/-- RXST as read: RXX in bit 7, bits [6:3] zero, STATE in bits [2:0] (R26). -/
def State.rxstByte (s : State) : Byte :=
  (if s.rxx then 0x80#8 else 0x00#8) ||| s.rxState.code.setWidth 8

/-- RXEC as read: CODE in bits [3:0], bits [7:4] zero (R27). -/
def State.rxecByte (s : State) : Byte := s.rxec.code.setWidth 8

/-- The classes of failure codes (spec/60_exceptions.md R221). -/
inductive CodeClass where
  | protocolIntegrity
  | length
  | blockUsage
  deriving DecidableEq, Repr

/-- The class of a code (spec/60_exceptions.md R221).  DESIGN CHOICE, log 14: R221 lists OK, UnknownCommand and the
two codes the block never writes in none of its classes, and the model puts these four in none. -/
def StatusCode.codeClass : StatusCode → Option CodeClass
  | .badAck | .badHeaderChecksum | .badBodyChecksum | .unexpectedOpcode => some .protocolIntegrity
  | .truncatedFrame | .unexpectedBodyLength | .fieldOutOfRange | .bodyTooLarge => some .length
  | .noFrame | .rxClosed | .badFieldSpec | .illegalCommand => some .blockUsage
  | .ok | .unknownCommand | .responseTimeout | .linkError => none

end Sys2Proof.Machine
end

