-- ==== Sys2Proof/Machine/Operands.lean ====
section
/-! DEFINITION. Operand assembly (spec/30_encoding.md R100, spec/20_memory.md R74): the bytes of a multi-byte
register, little-endian byte lists, and the operands a command reads from the registers. -/

namespace Sys2Proof.Machine

/-- Byte `k` of a register: bits [8k+7:8k] (R74). -/
def byteOf {n : Nat} (v : BitVec n) (k : Nat) : Byte := v.extractLsb' (8 * k) 8

/-- A register with byte `k` replaced, every other byte kept (spec/40_host_access.md R122). -/
def withByte {n : Nat} (v : BitVec n) (k : Nat) (b : Byte) : BitVec n :=
  (v &&& ~~~((0xFF#8).setWidth n <<< (8 * k))) ||| (b.setWidth n <<< (8 * k))

/-- The low `count` bytes of a pattern, least significant first (R74). -/
def leBytes {n : Nat} (count : Nat) (v : BitVec n) : List Byte :=
  (List.range count).map (byteOf v)

/-- The unsigned value of bytes, least significant first (R74, R183). -/
def leValue : List Byte → Nat
  | [] => 0
  | b :: bs => b.toNat + 256 * leValue bs

/-- E_LEN as an unsigned number (R100). -/
def State.bodyLengthOperand (s : State) : Nat := s.eLen.toNat

/-- X_OFF as an unsigned number (R100). -/
def State.offsetOperand (s : State) : Nat := s.xOff.toNat

/-- X_WID as an unsigned number (R100). -/
def State.widthOperand (s : State) : Nat := s.xWid.toNat

/-- `toSigned_32(X_MANT)` (R100, spec/10_state.md R37). -/
def State.mantissaOperand (s : State) : Int := s.xMant.toInt

end Sys2Proof.Machine
end

