-- ==== Sys2Proof/Machine/Ops.lean ====
section
/-! DEFINITION. The operations over memory and registers: the memory of the buffers, the address map and the bus
read (spec/20_memory.md R71, R72), storing a byte into a writable location, raising a status code
(spec/60_exceptions.md R224, R226), entering ERR (spec/43_receiver.md R152) and reset (spec/70_reset_and_hazards.md R250). -/

namespace Sys2Proof.Machine

/-! ### Memory -/

/-- The byte listed at an address, if any. -/
def Memory.find? : Memory → Nat → Option Byte
  | [], _ => none
  | (k, b) :: m, a => if k = a then some b else Memory.find? m a

/-- Memory with the byte `b` written at `a`, addresses kept strictly rising. -/
def Memory.set : Memory → Nat → Byte → Memory
  | [], a, b => [(a, b)]
  | (k, c) :: m, a, b =>
    if a < k then (a, b) :: (k, c) :: m
    else if k = a then (a, b) :: m
    else (k, c) :: Memory.set m a b

/-- Memory with the bytes `bs` written from `a` upwards. -/
def Memory.setRange : Memory → Nat → List Byte → Memory
  | m, _, [] => m
  | m, a, b :: bs => Memory.setRange (Memory.set m a b) (a + 1) bs

/-- The canonical form: addresses strictly rising.  An unlisted address reads as a free value and not as a byte
(log 2), so no entry can equal what an unlisted address reads as. -/
def Memory.wf : Memory → Bool
  | [] => true
  | [_] => true
  | x :: y :: m => decide (x.1 < y.1) && Memory.wf (y :: m)

/-- The byte a buffer cell holds: the one last written, or the free value since the reset numbered `epoch`
(spec/20_memory.md R84, spec/93_implementation_defined.md U5). -/
def cellByte (m : Memory) (epoch a : Nat) : Byte :=
  (Memory.find? m a).getD (Config.unwrittenByte epoch a)

/-- The `n` bytes of the cells from host address `a` upwards. -/
def cellBytes (m : Memory) (epoch : Nat) : Nat → Nat → List Byte
  | _, 0 => []
  | a, n + 1 => cellByte m epoch a :: cellBytes m epoch (a + 1) n

/-- The byte of the buffer cell at host address `a`. -/
def State.bufByte (s : State) (a : Nat) : Byte := cellByte s.mem s.epoch a

/-- The `n` bytes of the buffers from host address `a` upwards. -/
def State.bufBytes (s : State) (a n : Nat) : List Byte := cellBytes s.mem s.epoch a n

/-- The state with a byte written to a buffer cell. -/
def State.setBufByte (s : State) (a : Nat) (b : Byte) : State :=
  { s with mem := Memory.set s.mem a b }

/-- The state with bytes written to consecutive buffer cells. -/
def State.setBufBytes (s : State) (a : Nat) (bs : List Byte) : State :=
  { s with mem := Memory.setRange s.mem a bs }

/-! ### The buffers (spec/10_state.md R42 to R45) -/

/-- The host address of RXBUF[i]. -/
def rxbufAddr (i : Nat) : Nat := 0x0100 + i

/-- How many bytes RXBUF has. -/
abbrev rxbufSize : Nat := 260

/-- The host address of EBUF[i]. -/
def ebufAddr (i : Nat) : Nat := 0x0300 + i

/-- The host address of TXBUF[i]. -/
def txbufAddr (i : Nat) : Nat := 0x0400 + i

/-- The host address of the first byte of FOUT[i]. -/
def foutAddr (i : Nat) : Nat := 0x1000 + 16 * i

/-- RXBUF[i]. -/
def State.rxbuf (s : State) (i : Nat) : Byte := s.bufByte (rxbufAddr i)

/-- TXBUF[i]. -/
def State.txbuf (s : State) (i : Nat) : Byte := s.bufByte (txbufAddr i)

/-- EBUF[i]. -/
def State.ebuf (s : State) (i : Nat) : Byte := s.bufByte (ebufAddr i)

/-- The length byte of the frame in RXBUF, RXBUF[2] (spec/43_receiver.md R156). -/
def State.frameLength (s : State) : Nat := (s.rxbuf 2).toNat

/-- The body of the frame in RXBUF, RXBUF[4..3+L] (R156). -/
def State.frameBody (s : State) : List Byte := s.bufBytes (rxbufAddr 4) s.frameLength

/-- The request body EBUF[0..n-1]. -/
def State.requestBody (s : State) (n : Nat) : List Byte := s.bufBytes (ebufAddr 0) n

/-! ### The address map (spec/20_memory.md R71) -/

/-- What the host address space holds. -/
inductive Loc where
  | cmd | arg | status | rxst | rxec | rxcnt | rxd
  | eOpcode | eLen | txlen
  | xOff | xWid | xSgn | xShift | xMant | xRaw | xRsh | xScaled
  | fcnt
  | rxbuf | ebuf | txbuf | fout
  deriving DecidableEq, Repr

/-- The access classes of spec/10_state.md section 2. -/
inductive Access where
  | r | w | rw
  deriving DecidableEq, Repr

/-- One row of the address map. -/
structure Region where
  base   : Nat
  size   : Nat
  loc    : Loc
  access : Access
  deriving DecidableEq, Repr

/-- The address map of R71; an address in no row is unmapped. -/
def addressMap : List Region :=
  [⟨0x0000, 1, .cmd, .w⟩,
   ⟨0x0001, 1, .arg, .rw⟩,
   ⟨0x0002, 1, .status, .r⟩,
   ⟨0x0003, 1, .rxst, .r⟩,
   ⟨0x0004, 1, .rxec, .r⟩,
   ⟨0x0006, 2, .rxcnt, .r⟩,
   ⟨0x0008, 1, .rxd, .w⟩,
   ⟨0x0010, 1, .eOpcode, .rw⟩,
   ⟨0x0012, 2, .eLen, .rw⟩,
   ⟨0x0014, 2, .txlen, .r⟩,
   ⟨0x0020, 1, .xOff, .rw⟩,
   ⟨0x0021, 1, .xWid, .rw⟩,
   ⟨0x0022, 1, .xSgn, .rw⟩,
   ⟨0x0023, 1, .xShift, .rw⟩,
   ⟨0x0024, 4, .xMant, .rw⟩,
   ⟨0x0028, 4, .xRaw, .r⟩,
   ⟨0x002C, 1, .xRsh, .r⟩,
   ⟨0x0030, 8, .xScaled, .r⟩,
   ⟨0x0040, 1, .fcnt, .r⟩,
   ⟨0x0100, 260, .rxbuf, .r⟩,
   ⟨0x0300, 255, .ebuf, .rw⟩,
   ⟨0x0400, 260, .txbuf, .r⟩,
   ⟨0x1000, 4080, .fout, .r⟩]

/-- Whether a row of the map covers an address. -/
def Region.covers (r : Region) (a : Nat) : Bool := decide (r.base ≤ a) && decide (a < r.base + r.size)

/-- The row that covers a host address. -/
def regionOf (a : Addr) : Option Region := addressMap.find? fun r => r.covers a.toNat

/-- The stored byte at offset `k` of a location whose host address is `a`; RAZ fields are 0 (R72). -/
def State.locByte (s : State) (l : Loc) (k a : Nat) : Byte :=
  match l with
  | .cmd => 0x00#8
  | .arg => s.arg
  | .status => s.statusByte
  | .rxst => s.rxstByte
  | .rxec => s.rxecByte
  | .rxcnt => byteOf s.rxcnt k
  | .rxd => 0x00#8
  | .eOpcode => s.eOpcode
  | .eLen => byteOf s.eLen k
  | .txlen => byteOf s.txlen k
  | .xOff => s.xOff
  | .xWid => s.xWid
  | .xSgn => if s.xSgn then 0x01#8 else 0x00#8
  | .xShift => s.xShift.setWidth 8
  | .xMant => byteOf s.xMant k
  | .xRaw => byteOf s.xRaw k
  | .xRsh => s.xRsh.setWidth 8
  | .xScaled => byteOf s.xScaled k
  | .fcnt => s.fcnt
  | .rxbuf => s.bufByte a
  | .ebuf => s.bufByte a
  | .txbuf => s.bufByte a
  | .fout => s.bufByte a

/-- `MemRead(a, 1)` (R72): the stored byte, 0x00 for a `W` register and for an unmapped address. -/
def memRead (a : Addr) (s : State) : Byte :=
  match regionOf a with
  | none => 0x00#8
  | some r => if r.access = .w then 0x00#8 else s.locByte r.loc (a.toNat - r.base) a.toNat

/-- The effect of a host write of `v` at offset `k` of an R/W location whose host address is `a`, bits of RAZ/WI
fields discarded (R72).  CMD, RXD and the R locations store nothing. -/
def State.storeLoc (s : State) (l : Loc) (k a : Nat) (v : Byte) : State :=
  match l with
  | .arg => { s with arg := v }
  | .eOpcode => { s with eOpcode := v }
  | .eLen => { s with eLen := withByte s.eLen k v }
  | .xOff => { s with xOff := v }
  | .xWid => { s with xWid := v }
  | .xSgn => { s with xSgn := v.getLsbD 0 }
  | .xShift => { s with xShift := v.setWidth 6 }
  | .xMant => { s with xMant := withByte s.xMant k v }
  | .ebuf => s.setBufByte a v
  | .cmd | .status | .rxst | .rxec | .rxcnt | .rxd | .txlen | .xRaw | .xRsh | .xScaled | .fcnt
  | .rxbuf | .txbuf | .fout => s

/-! ### Status, failures, reset -/

/-- `raise E`: STATUS.CODE takes the code and nothing else changes (spec/60_exceptions.md R224, R226).  The block's
one form of taking an exception: it saves nothing, changes no mode and vectors nowhere. -/
def State.raise (s : State) (e : StatusCode) : State := { s with status := e }

/-- `fail(e)` of the receiver: the FSM enters ERR, and RXEC and STATUS.CODE take the code (spec/43_receiver.md
R152).  It is left only by `State.clear` and reset (spec/60_exceptions.md R228). -/
def State.rxFail (s : State) (e : StatusCode) : State :=
  { s with rxState := .err, rxec := e, status := e }

/-- The return from every failure and the end of an exchange: what CLR does (spec/40_host_access.md R124,
spec/60_exceptions.md R228). -/
def State.clear (s : State) : State :=
  { s with rxState := .idle, rxx := false, rxec := .ok, rxcnt := 0x0000#16, rxsum := 0x00#8,
           fcnt := 0x00#8, status := .ok }

/-- The byte an RD returned, given to the host (R121; log 4). -/
def State.giveRead (s : State) (b : Byte) : State := { s with reads := s.reads ++ [b] }

/-- The state once the host has taken its first presented event back (log 1). -/
def State.withPending (s : State) (p : List HostEvent) : State := { s with pending := p }

/-- Reset applied between two transactions (spec/70_reset_and_hazards.md R250, R251): every register at its reset
value, every buffer byte unspecified again (log 2), the configuration and the host's side kept. -/
def State.applyReset (s : State) : State :=
  { State.reset with
    respMarker := s.respMarker, catalog := s.catalog
    pending := s.pending, reads := s.reads, epoch := s.epoch + 1 }

end Sys2Proof.Machine
end

