-- ==== Sys2Proof/Machine/Checksum.lean ====
section
/-! DEFINITION. The checksum unit (spec/41_checksum.md). -/

namespace Sys2Proof.Machine

/-- `CK8(s)`: the running 8-bit modular sum of a byte sequence (spec/41_checksum.md R130), pinned by the fixture
(R134); the empty sequence gives 0x00 (R133). -/
def ck8 (s : List Byte) : Byte := s.foldl (fun acc b => acc + b) 0x00#8

/-- The header checksum of opcode `op` and body length `n` (R131). -/
def headerChecksum (op n : Byte) : Byte := ck8 [op, n]

end Sys2Proof.Machine
end

