-- ==== Sys2Proof/Machine/Encoder.lean ====
section
/-! DEFINITION. The request encoder: EncodeFrame and the command ENC (spec/42_encoder.md). -/

namespace Sys2Proof.Machine

/-- REQ_MARKER, the start marker of a request frame (spec/00_scope.md R5, spec/30_encoding.md R93). -/
def reqMarker : Byte := 0x3E#8

/-- The longest body a frame carries (spec/00_scope.md R5, MAX_BODY). -/
abbrev maxBody : Nat := 255

/-- `EncodeFrame(op, body)` (spec/42_encoder.md R141), for a body of at most 255 bytes. -/
def encodeFrame (op : Byte) (body : List Byte) : List Byte :=
  [reqMarker, op, BitVec.ofNat 8 body.length, headerChecksum op (BitVec.ofNat 8 body.length)]
    ++ body ++ [ck8 body]

/-- The failing ENC: no frame is held and TXBUF is unchanged (spec/42_encoder.md R140). -/
def State.encodeTooLarge (s : State) : State :=
  State.raise { s with txlen := 0x0000#16 } .bodyTooLarge

/-- The succeeding ENC of a body of `n` bytes (R140). -/
def State.encodeRequest (s : State) (n : Nat) : State :=
  State.raise
    { s.setBufBytes (txbufAddr 0) (encodeFrame s.eOpcode (s.requestBody n)) with
      txlen := BitVec.ofNat 16 (n + 5) }
    .ok

/-- What ENC does to the state (R140). -/
def State.encode (s : State) : State :=
  if s.bodyLengthOperand > maxBody then s.encodeTooLarge
  else s.encodeRequest s.bodyLengthOperand

/-- ENC, encode a request frame (spec/42_encoder.md R140). -/
def execEnc (s : State) : Host.Outcome State Fault Refusal := .next s.encode

end Sys2Proof.Machine
end

