-- ==== Sys2Proof/Machine/Catalog.lean ====
section
/-! DEFINITION. The catalog: its well-formedness checks, lookup by opcode and the configuration of a block
(spec/44_fields.md R180 to R182, spec/70_reset_and_hazards.md R252). -/

namespace Sys2Proof.Machine

/-- The first body index past a field. -/
def fieldEnd (f : FieldSpec) : Nat := f.off + f.wid

/-- Whether the byte ranges of two fields are disjoint (R181, CAT_NO_OVERLAP). -/
def fieldsDisjoint (f g : FieldSpec) : Bool :=
  decide (fieldEnd f ≤ g.off) || decide (fieldEnd g ≤ f.off)

/-- Whether a relation holds between each element of a list and every later one. -/
def pairwiseHolds {α : Type} (p : α → α → Bool) : List α → Bool
  | [] => true
  | x :: xs => xs.all (p x) && pairwiseHolds p xs

/-- The named checks of a catalog, in the order of the table of R181. -/
inductive CatalogCheck where
  /-- CAT_OPCODE_UNIQUE. -/
  | opcodeUnique
  /-- CAT_WIDTH. -/
  | width
  /-- CAT_SHIFT. -/
  | shift
  /-- CAT_IN_FRAME. -/
  | inFrame
  /-- CAT_IN_FIXED. -/
  | inFixed
  /-- CAT_NO_OVERLAP. -/
  | noOverlap
  /-- CAT_NFIELDS. -/
  | nFields
  deriving DecidableEq, Repr

/-- Every check, in the order in which the model reports them (log 15). -/
def CatalogCheck.all : List CatalogCheck :=
  [.opcodeUnique, .width, .shift, .inFrame, .inFixed, .noOverlap, .nFields]

/-- Whether a field lies inside a descriptor's fixed length, where it has one (R181, CAT_IN_FIXED). -/
def fieldInFixed (len : BodyLength) (f : FieldSpec) : Bool :=
  match len with
  | .fixed n => decide (fieldEnd f ≤ n.toNat)
  | .anyLength => true

/-- Whether a catalog passes a check (R181). -/
def CatalogCheck.passes (c : List Descriptor) : CatalogCheck → Bool
  | .opcodeUnique => pairwiseHolds (fun d e => d.opcode != e.opcode) c
  | .width => c.all fun d => d.fields.all fun f => decide (1 ≤ f.wid) && decide (f.wid ≤ 4)
  | .shift => c.all fun d => d.fields.all fun f => decide (f.shift ≤ 63)
  | .inFrame => c.all fun d => d.fields.all fun f => decide (fieldEnd f ≤ 255)
  | .inFixed => c.all fun d => d.fields.all (fieldInFixed d.fixed)
  | .noOverlap => c.all fun d => pairwiseHolds fieldsDisjoint d.fields
  | .nFields => c.all fun d => decide (d.fields.length ≤ 255)

/-- The first check that a catalog fails, if any.  DESIGN CHOICE, log 15: R181 names no order among its checks, and
the model takes that of its table. -/
def catalogFailure (c : List Descriptor) : Option CatalogCheck :=
  CatalogCheck.all.find? fun k => !k.passes c

/-- A catalog is well-formed when every named check holds (R181). -/
def catalogWf (c : List Descriptor) : Bool := CatalogCheck.all.all fun k => k.passes c

/-- Configure a block with a RESP_MARKER and a CATALOG and apply reset (spec/70_reset_and_hazards.md R252).  A
configuration that fails a check is refused by that check's name, the first in the table's order where it fails
several (DESIGN CHOICE, log 15): no block is built with it (R181, U8). -/
def configure (marker : Byte) (c : List Descriptor) : Except CatalogCheck State :=
  match catalogFailure c with
  | some k => .error k
  | none => .ok { State.reset with respMarker := marker, catalog := c }

/-- `Lookup(op)`: the descriptor whose opcode is `op`, or none (R182). -/
def lookup (c : List Descriptor) (op : Byte) : Option Descriptor :=
  c.find? fun d => d.opcode == op

end Sys2Proof.Machine
end

