-- ==== Sys2Proof/Machine/Fields.lean ====
section
/-! DEFINITION. The field-extraction datapath: the extraction arithmetic and the commands FX and FDEC
(spec/44_fields.md R183 to R189). -/

namespace Sys2Proof.Machine

/-! ### Extraction arithmetic -/

/-- `FieldBits(body, off, wid)`: the little-endian unsigned value of `wid` bytes at `off` (R183). -/
def fieldBits (body : List Byte) (off wid : Nat) : Nat := leValue ((body.drop off).take wid)

/-- `RawValue(v, wid, sgn)`: the field's raw value, read as two's complement where it is signed (R184). -/
def rawValue (v wid : Nat) (sgn : Bool) : Int :=
  if sgn = true ∧ 2 ^ (8 * wid - 1) ≤ v then (v : Int) - 2 ^ (8 * wid) else v

/-- `Scaled(raw, mant)`: the exact product (R185). -/
def scaledValue (raw mant : Int) : Int := raw * mant

/-- The value of a raw pattern, by the field's signedness (R184, last lines). -/
def rawOfPattern (sgn : Bool) (p : BitVec 32) : Int := if sgn then p.toInt else p.toNat

/-! ### FX -/

/-- Whether X_WID is a legal width (spec/10_state.md R34). -/
def legalWidth (w : Nat) : Bool := decide (1 ≤ w) && decide (w ≤ 4)

/-- The raw value that FX extracts with the parameters in the X_ registers (R187). -/
def State.extractedRaw (s : State) : Int :=
  rawValue (fieldBits s.frameBody s.offsetOperand s.widthOperand) s.widthOperand s.xSgn

/-- The succeeding FX (R187). -/
def State.extractField (s : State) : State :=
  State.raise
    { s with
      xRaw := BitVec.ofInt 32 s.extractedRaw
      xScaled := BitVec.ofInt 64 (scaledValue s.extractedRaw s.mantissaOperand)
      xRsh := s.xShift }
    .ok

/-- What FX does to the state, its checks in the order of R187. -/
def State.fieldExtract (s : State) : State :=
  if legalWidth s.widthOperand = false then s.raise .badFieldSpec
  else if s.rxState ≠ .done then s.raise .noFrame
  else if s.offsetOperand + s.widthOperand > s.frameLength then s.raise .fieldOutOfRange
  else s.extractField

/-- FX, extract one field with explicit parameters (R187). -/
def execFx (s : State) : Host.Outcome State Fault Refusal := .next s.fieldExtract

/-! ### FDEC -/

/-- One entry of FOUT (spec/10_state.md R45). -/
structure FoutEntry where
  fmt    : Byte
  wid    : Byte
  sgn    : Byte
  shift  : Byte
  raw    : BitVec 32
  scaled : BitVec 64
  deriving DecidableEq, Repr

/-- The 16 bytes of an entry in address order (spec/10_state.md R45, spec/20_memory.md R74). -/
def FoutEntry.bytes (e : FoutEntry) : List Byte :=
  [e.fmt, e.wid, e.sgn, e.shift] ++ leBytes 4 e.raw ++ leBytes 8 e.scaled

/-- The raw value of a field in a body (R189). -/
def fieldRaw (f : FieldSpec) (body : List Byte) : Int :=
  rawValue (fieldBits body f.off f.wid) f.wid f.sgn

/-- `Entry(f, body)` (R189). -/
def fieldEntry (f : FieldSpec) (body : List Byte) : FoutEntry where
  fmt := f.fmt
  wid := BitVec.ofNat 8 f.wid
  sgn := if f.sgn then 0x01#8 else 0x00#8
  shift := BitVec.ofNat 8 f.shift
  raw := BitVec.ofInt 32 (fieldRaw f body)
  scaled := BitVec.ofInt 64 (scaledValue (fieldRaw f body) f.mant.toInt)

/-- The bytes FDEC writes to FOUT, one entry per field in declaration order (R188, R189). -/
def descriptorBytes (d : Descriptor) (body : List Byte) : List Byte :=
  d.fields.flatMap fun f => (fieldEntry f body).bytes

/-- FDEC's `fail(e)` (R188): FOUT is unchanged. -/
def State.decodeFail (s : State) (e : StatusCode) : State :=
  State.raise { s with fcnt := 0x00#8 } e

/-- The succeeding FDEC for descriptor `d` (R188). -/
def State.decodeDescriptor (s : State) (d : Descriptor) : State :=
  State.raise
    { s.setBufBytes (foutAddr 0) (descriptorBytes d s.frameBody) with
      fcnt := BitVec.ofNat 8 d.fields.length }
    .ok

/-- Whether a fixed body length differs from the frame's length byte (R188). -/
def lengthDiffers (len : BodyLength) (l : Byte) : Bool :=
  match len with
  | .fixed n => l != n
  | .anyLength => false

/-- Whether some field of a descriptor runs past a body of `l` bytes (R188). -/
def fieldRunsPast (d : Descriptor) (l : Nat) : Bool :=
  d.fields.any fun f => decide (fieldEnd f > l)

/-- What FDEC does to the state, its checks in the order of R188. -/
def State.decodeFields (s : State) : State :=
  match lookup s.catalog s.arg with
  | none => s.decodeFail .unknownCommand
  | some d =>
    if s.rxState ≠ .done then s.decodeFail .noFrame
    else if s.rxbuf 1 ≠ s.arg then s.decodeFail .unexpectedOpcode
    else if lengthDiffers d.fixed (s.rxbuf 2) = true then s.decodeFail .unexpectedBodyLength
    else if fieldRunsPast d s.frameLength = true then s.decodeFail .fieldOutOfRange
    else s.decodeDescriptor d

/-- FDEC, decode every field of the expected opcode's descriptor (R188). -/
def execFdec (s : State) : Host.Outcome State Fault Refusal := .next s.decodeFields

end Sys2Proof.Machine
end

