-- ==== Sys2Proof/Machine/Receiver.lean ====
section
/-! DEFINITION. The response receiver and validator: the decode contract, the receive FSM's step RXB and the
command RXEOF (spec/43_receiver.md). -/

namespace Sys2Proof.Machine

/-! ### The decode contract (R150) -/

/-- The source's Frame record (spec/43_receiver.md R156). -/
structure Frame where
  startMarker    : Byte
  opcode         : Byte
  bodyLength     : Byte
  headerChecksum : Byte
  body           : List Byte
  bodyChecksum   : Byte
  deriving DecidableEq, Repr

/-- The verdict of `DecodeFrame`: the failure code, or the frame and the number of bytes it takes. -/
inductive FrameVerdict where
  | fail (e : StatusCode)
  | accept (f : Frame) (consumed : Nat)
  deriving DecidableEq, Repr

/-- Byte `i` of a byte sequence; every use below is in range. -/
def seqByte (raw : List Byte) (i : Nat) : Byte := raw.getD i 0x00#8

/-- `DecodeFrame(raw)`, the normative decode contract (R150), with the marker a response must carry. -/
def decodeFrame (marker : Byte) (raw : List Byte) : FrameVerdict :=
  if raw.length < 4 then .fail .truncatedFrame
  else if seqByte raw 0 ≠ marker then .fail .badAck
  else if seqByte raw 3 ≠ ck8 [seqByte raw 1, seqByte raw 2] then .fail .badHeaderChecksum
  else
    let len := (seqByte raw 2).toNat
    let body := (raw.drop 4).take len
    if raw.length < 5 + len then .fail .truncatedFrame
    else if seqByte raw (4 + len) ≠ ck8 body then .fail .badBodyChecksum
    else
      .accept
        { startMarker := seqByte raw 0, opcode := seqByte raw 1, bodyLength := seqByte raw 2,
          headerChecksum := seqByte raw 3, body := body, bodyChecksum := seqByte raw (4 + len) }
        (5 + len)

/-! ### The receive FSM -/

/-- `HeaderVerdict(m, op, n, hc)`: the marker is checked before the checksum (R153). -/
def headerVerdict (marker m op n hc : Byte) : StatusCode :=
  if m ≠ marker then .badAck
  else if hc ≠ headerChecksum op n then .badHeaderChecksum
  else .ok

/-- `RXBUF[RXCNT] <- b; RXCNT <- RXCNT + 1` (R152). -/
def State.storeReceived (s : State) (b : Byte) : State :=
  { s.setBufByte (rxbufAddr s.rxcnt.toNat) b with rxcnt := s.rxcnt + 1#16 }

/-- A byte that arrives in DONE or ERR is dropped (R152, R158). -/
def State.dropReceived (s : State) : State :=
  State.raise { s with rxx := true } .rxClosed

/-- The header verdict, once the fourth byte is stored (R152, R153). -/
def State.judgeHeader (s : State) : State :=
  let v := headerVerdict s.respMarker (s.rxbuf 0) (s.rxbuf 1) (s.rxbuf 2) (s.rxbuf 3)
  if v ≠ .ok then s.rxFail v
  else
    State.raise
      { s with rxsum := 0x00#8, rxState := if s.rxbuf 2 = 0x00#8 then .ckb else .body } .ok

/-- RXB in IDLE and HDR, the byte stored (R152). -/
def State.receiveHeaderByte (s : State) (b : Byte) : State :=
  let t := s.storeReceived b
  if t.rxcnt.toNat < 4 then State.raise { t with rxState := .hdr } .ok
  else t.judgeHeader

/-- RXB in BODY, the byte stored and added to the running sum (R152). -/
def State.receiveBodyByte (s : State) (b : Byte) : State :=
  let t := s.storeReceived b
  State.raise
    { t with
      rxsum := t.rxsum + b
      rxState := if t.rxcnt.toNat = 4 + t.frameLength then .ckb else .body }
    .ok

/-- RXB in CKB, the byte stored and compared with the running sum (R152). -/
def State.receiveChecksumByte (s : State) (b : Byte) : State :=
  let t := s.storeReceived b
  if b = t.rxsum then State.raise { t with rxState := .done } .ok
  else t.rxFail .badBodyChecksum

/-- A receive step that stores its byte; it stops where RXBUF has no byte RXCNT (log 5). -/
def storingStep (s : State) (t : State) : Host.Outcome State Fault Refusal :=
  if s.rxcnt.toNat < rxbufSize then .next t else .fault .rxBufferOverrun

/-- The receive-byte step (R152). -/
def receiveByte (b : Byte) (s : State) : Host.Outcome State Fault Refusal :=
  match s.rxState with
  | .done => .next s.dropReceived
  | .err => .next s.dropReceived
  | .idle => storingStep s (s.receiveHeaderByte b)
  | .hdr => storingStep s (s.receiveHeaderByte b)
  | .body => storingStep s (s.receiveBodyByte b)
  | .ckb => storingStep s (s.receiveChecksumByte b)

/-- RXB b, receive one response byte (R152). -/
def execRxb (b : Byte) (s : State) : Host.Outcome State Fault Refusal := receiveByte b s

/-- What RXEOF does to the state (R154). -/
def State.endOfInput (s : State) : State :=
  match s.rxState with
  | .idle | .hdr | .body | .ckb => s.rxFail .truncatedFrame
  | .done => s.raise .ok
  | .err => s.raise s.rxec

/-- RXEOF, end of input (R154). -/
def execRxeof (s : State) : Host.Outcome State Fault Refusal := .next s.endOfInput

end Sys2Proof.Machine
end

