-- ==== Sys2Proof/Machine/HostAccess.lean ====
section
/-! DEFINITION. Host access and control: IDLE, RD, WR, ILLCMD and CLR, and the bus write MemWrite
(spec/40_host_access.md, spec/20_memory.md R72). -/

namespace Sys2Proof.Machine

/-- The command that a write of `c` to CMD starts (spec/10_state.md R23, spec/30_encoding.md R96). -/
def startCommand (c : Byte) (s : State) : State :=
  if c = 0x01#8 then s.clear
  else if c = 0x02#8 then s.endOfInput
  else if c = 0x03#8 then s.encode
  else if c = 0x04#8 then s.fieldExtract
  else if c = 0x05#8 then s.decodeFields
  else s.raise .illegalCommand

/-- `MemWrite(a, 1, v)` (R72): the command of a CMD write, the receive step of an RXD write, the stored byte of an
R/W location, nothing for an R location and for an unmapped address. -/
def memWrite (a : Addr) (v : Byte) (s : State) : Host.Outcome State Fault Refusal :=
  match regionOf a with
  | none => .next s
  | some r =>
    if r.loc = .cmd then .next (startCommand v s)
    else if r.loc = .rxd then receiveByte v s
    else if r.access = .rw then .next (s.storeLoc r.loc (a.toNat - r.base) a.toNat v)
    else .next s

/-- IDLE, no transaction: no state changes (R120). -/
def execIdle (_ignored : BitVec 30) (s : State) : Host.Outcome State Fault Refusal := .next s

/-- RD a, host read of one byte: the byte goes to the host and nothing else changes (R121). -/
def execRd (a : Addr) (s : State) : Host.Outcome State Fault Refusal :=
  .next (s.giveRead (memRead a s))

/-- WR a, d, host write of one byte (R122). -/
def execWr (a : Addr) (d : Byte) (s : State) : Host.Outcome State Fault Refusal := memWrite a d s

/-- ILLCMD c, a write of an undefined command code to CMD (R123). -/
def execIllcmd (_c : Byte) (s : State) : Host.Outcome State Fault Refusal :=
  .next (s.raise .illegalCommand)

/-- CLR, clear the receiver and the decoded-field count (R124). -/
def execClr (s : State) : Host.Outcome State Fault Refusal := .next s.clear

end Sys2Proof.Machine
end

