-- ==== Sys2Proof/Machine/Dispatch.lean ====
section
/-! DEFINITION. The dispatch: one arm per constructor of Instr. -/

namespace Sys2Proof.Machine

def exec (i : Instr) (s : State) : Host.Outcome State Fault Refusal :=
  match i with
  | .idle ignored => Sys2Proof.Machine.execIdle ignored s
  | .rd a => Sys2Proof.Machine.execRd a s
  | .wr a d => Sys2Proof.Machine.execWr a d s
  | .illcmd c => Sys2Proof.Machine.execIllcmd c s
  | .clr => Sys2Proof.Machine.execClr s
  | .rxeof => Sys2Proof.Machine.execRxeof s
  | .enc => Sys2Proof.Machine.execEnc s
  | .fx => Sys2Proof.Machine.execFx s
  | .fdec => Sys2Proof.Machine.execFdec s
  | .rxb b => Sys2Proof.Machine.execRxb b s

end Sys2Proof.Machine
end

