-- ==== Sys2Proof/Machine/Transaction.lean ====
section
/-! DEFINITION. What the host presents to the block for one step (spec/30_encoding.md R90, spec/70_reset_and_hazards.md
R251, R252, R262): the block's counterpart of an instruction fetch. -/

namespace Sys2Proof.Machine

/-- What one step is to do. -/
inductive Presented where
  /-- Perform a transaction, in the state that no longer has it pending. -/
  | perform (i : Instr) (s : State)
  /-- Apply reset, in the state that no longer has it pending. -/
  | applyReset (s : State)
  /-- There is no move. -/
  | refuse (r : Refusal)
  deriving DecidableEq, Repr

/-- What the host presents next.  Nothing presented is the bus with neither `wr_en` nor `rd_en` asserted, an IDLE
(spec/40_host_access.md R120, spec/60_exceptions.md R237; log 1).  DESIGN CHOICE, log 15: an ill-formed catalog is the
reason named before the presented word is looked at. -/
def presented (s : State) : Presented :=
  if catalogWf s.catalog = true then
    match s.pending with
    | [] => .perform (.idle 0#30) s
    | .reset :: rest => .applyReset (s.withPending rest)
    | .transaction w :: rest =>
      match decode w with
      | .ok i => .perform i (s.withPending rest)
      | .error e => .refuse (.illegalTransaction e)
  else .refuse .illFormedCatalog

/-- The state in which the host presents the word `w` next. -/
def State.present (s : State) (w : Htw) : State :=
  s.withPending (.transaction w :: s.pending)

end Sys2Proof.Machine
end

