-- ==== Sys2Proof/Machine/Step.lean ====
section
/-! DEFINITION. One step: what the host presents next (spec/00_scope.md R6, spec/20_memory.md R78). -/

namespace Sys2Proof.Machine

/-- One step of the block: one host transaction, one reset, or the idle bus. -/
def step (s : State) : Host.Outcome State Fault Refusal :=
  match presented s with
  | .perform i t => exec i t
  | .applyReset t => .next t.applyReset
  | .refuse r => .refused r

/-- `s` with the transaction word of spec/opcode_table.json's numbering presented next (log 1). -/
def State.withFetchWord (s : State) (nbits w : Nat) : State := s.present (wordOfBits nbits w)

end Sys2Proof.Machine
end

