-- ==== Sys2Proof/Machine/Assembler.lean ====
section
/-! DEFINITION. The assembler: the lines of spec/30_encoding.md R101 and the pseudo-instructions of R102, as data,
and the transaction words each stands for. -/

namespace Sys2Proof.Machine

/-- The lowest address of a register or buffer name (spec/20_memory.md R71, R101). -/
def Loc.baseAddr (l : Loc) : Nat :=
  match addressMap.find? fun r => r.loc == l with
  | some r => r.base
  | none => 0

/-- An address: a number, or a name plus an offset (R101). -/
inductive AsmAddr where
  | number (a : Addr)
  | name (l : Loc) (offset : Nat)
  deriving DecidableEq, Repr

/-- The address that an address expression stands for (R101). -/
def AsmAddr.value : AsmAddr → Addr
  | .number a => a
  | .name l k => BitVec.ofNat 16 (l.baseAddr + k)

/-- `WR a, d` encodes as `0x40000000 | a << 8 | d` (R101). -/
def asmWr (a : Addr) (d : Byte) : Htw :=
  0x40000000#32 ||| (a.setWidth 32 <<< 8) ||| d.setWidth 32

/-- `RD a` encodes as `0x80000000 | a << 8` (R101). -/
def asmRd (a : Addr) : Htw := 0x80000000#32 ||| (a.setWidth 32 <<< 8)

/-- A command is `WR 0x0000, c` (R101). -/
def asmCommand (c : Byte) : Htw := asmWr 0x0000#16 c

/-- `RXB b` is `WR 0x0008, b` (R101). -/
def asmRxb (b : Byte) : Htw := asmWr 0x0008#16 b

/-- The writes of bytes to consecutive addresses. -/
def asmWrites : Addr → List Byte → List Htw
  | _, [] => []
  | a, b :: bs => asmWr a b :: asmWrites (a + 1#16) bs

/-- The reads of `n` consecutive addresses. -/
def asmReads : Addr → Nat → List Htw
  | _, 0 => []
  | a, n + 1 => asmRd a :: asmReads (a + 1#16) n

/-- `WR16 a, v` (R102). -/
def asmWr16 (a : Addr) (v : BitVec 16) : List Htw := asmWrites a (leBytes 2 v)

/-- `WR32 a, v` (R102). -/
def asmWr32 (a : Addr) (v : BitVec 32) : List Htw := asmWrites a (leBytes 4 v)

/-- `LOADBODY b0, …, b(n-1)` (R102). -/
def asmLoadBody (bs : List Byte) : List Htw :=
  asmWrites (AsmAddr.name .ebuf 0).value bs
    ++ asmWr16 (AsmAddr.name .eLen 0).value (BitVec.ofNat 16 bs.length)

/-- One line: a transaction (R101) or a pseudo-instruction (R102). -/
inductive AsmLine where
  | idle
  | wr (a : AsmAddr) (d : Byte)
  | rd (a : AsmAddr)
  | clr
  | rxeof
  | enc
  | fx
  | fdec
  | rxb (b : Byte)
  | wr16 (a : AsmAddr) (v : BitVec 16)
  | wr32 (a : AsmAddr) (v : BitVec 32)
  | rd16 (a : AsmAddr)
  | rd32 (a : AsmAddr)
  | rd64 (a : AsmAddr)
  | loadBody (bs : List Byte)
  | send (op : Byte) (bs : List Byte)
  | rxframe (bs : List Byte)
  | setFx (off wid sgn : Byte) (mant : Int) (shift : Byte)
  | fdeci (op : Byte)
  deriving DecidableEq, Repr

/-- The transaction words a line stands for, in order (R101, R102). -/
def AsmLine.words : AsmLine → List Htw
  | .idle => [0x00000000#32]
  | .wr a d => [asmWr a.value d]
  | .rd a => [asmRd a.value]
  | .clr => [asmCommand 0x01#8]
  | .rxeof => [asmCommand 0x02#8]
  | .enc => [asmCommand 0x03#8]
  | .fx => [asmCommand 0x04#8]
  | .fdec => [asmCommand 0x05#8]
  | .rxb b => [asmRxb b]
  | .wr16 a v => asmWr16 a.value v
  | .wr32 a v => asmWr32 a.value v
  | .rd16 a => asmReads a.value 2
  | .rd32 a => asmReads a.value 4
  | .rd64 a => asmReads a.value 8
  | .loadBody bs => asmLoadBody bs
  | .send op bs =>
    asmWr (AsmAddr.name .eOpcode 0).value op :: asmLoadBody bs ++ [asmCommand 0x03#8]
  | .rxframe bs => bs.map asmRxb
  | .setFx off wid sgn mant shift =>
    [asmWr (AsmAddr.name .xOff 0).value off, asmWr (AsmAddr.name .xWid 0).value wid,
      asmWr (AsmAddr.name .xSgn 0).value sgn]
      ++ asmWr32 (AsmAddr.name .xMant 0).value (BitVec.ofInt 32 mant)
      ++ [asmWr (AsmAddr.name .xShift 0).value shift]
  | .fdeci op => [asmWr (AsmAddr.name .arg 0).value op, asmCommand 0x05#8]

/-- The value of RD16, RD32 or RD64: the little-endian assembly of the bytes read (R102). -/
def asmReadValue (bs : List Byte) : Nat := leValue bs

/-- A program: its lines' words in order (spec/95_test_vectors.md part 4). -/
def asmProgram (ls : List AsmLine) : List Htw := ls.flatMap AsmLine.words

end Sys2Proof.Machine
end

