-- ==== Sys2Proof/Machine/Rom.lean ====
section
/-! DEFINITION. The catalog's packed ROM image (spec/30_encoding.md R98, R99): one 32-bit descriptor word, then
its 64-bit field words, descriptor after descriptor. -/

namespace Sys2Proof.Machine

/-- One word of the image. -/
inductive RomWord where
  /-- A descriptor word (R98). -/
  | descriptor (w : BitVec 32)
  /-- A field word (R99). -/
  | field (w : BitVec 64)
  deriving DecidableEq, Repr

/-- Why an image is no valid configuration (R98, R99, spec/93_implementation_defined.md U8). -/
inductive RomError where
  /-- Bits [23:17] of a descriptor word are not 0. -/
  | descriptorReserved
  /-- FIXLEN is not 0 where VAR = 1. -/
  | fixedLengthOfVariable
  /-- Bits [23:18] of a field word are not 0. -/
  | fieldReserved
  /-- A field word stands where a descriptor word is due, or the other way round, or the image ends early. -/
  | misplacedWord
  /-- The catalog that the image holds fails a check of R181. -/
  | check (k : CatalogCheck)
  deriving DecidableEq, Repr

/-- The field of a field word (R99). -/
def romField (w : BitVec 64) : Except RomError FieldSpec :=
  if w.extractLsb' 18 6 ≠ 0#6 then .error .fieldReserved
  else
    .ok
      { off := (w.extractLsb' 0 8).toNat, wid := (w.extractLsb' 8 3).toNat, sgn := w.getLsbD 11
        mant := w.extractLsb' 32 32, shift := (w.extractLsb' 12 6).toNat, fmt := w.extractLsb' 24 8 }

/-- The fields of the next `n` words, and the words after them. -/
def romFields : Nat → List RomWord → Except RomError (List FieldSpec × List RomWord)
  | 0, ws => .ok ([], ws)
  | _ + 1, [] => .error .misplacedWord
  | _ + 1, .descriptor _ :: _ => .error .misplacedWord
  | n + 1, .field w :: ws =>
    match romField w with
    | .error e => .error e
    | .ok f =>
      match romFields n ws with
      | .error e => .error e
      | .ok (fs, rest) => .ok (f :: fs, rest)

/-- The opcode and length part of a descriptor word (R98). -/
def romHeader (w : BitVec 32) : Except RomError (Byte × BodyLength) :=
  if w.extractLsb' 17 7 ≠ 0#7 then .error .descriptorReserved
  else if w.getLsbD 16 = false then .ok (w.extractLsb' 0 8, .fixed (w.extractLsb' 8 8))
  else if w.extractLsb' 8 8 ≠ 0#8 then .error .fixedLengthOfVariable
  else .ok (w.extractLsb' 0 8, .anyLength)

/-- The descriptors of an image; the first argument bounds how many it may hold (each takes a word). -/
def romDescriptors : Nat → List RomWord → Except RomError (List Descriptor)
  | _, [] => .ok []
  | 0, _ :: _ => .error .misplacedWord
  | _ + 1, .field _ :: _ => .error .misplacedWord
  | n + 1, .descriptor w :: ws =>
    match romHeader w with
    | .error e => .error e
    | .ok (op, len) =>
      match romFields (w.extractLsb' 24 8).toNat ws with
      | .error e => .error e
      | .ok (fs, rest) =>
        match romDescriptors n rest with
        | .error e => .error e
        | .ok ds => .ok ({ opcode := op, fixed := len, fields := fs } :: ds)

/-- The catalog of an image; an image that breaks a rule of R98, R99 or R181 is no valid configuration.  DESIGN
CHOICE, log 15: where it breaks several, the reason is the first that reading the image from its start meets, the
checks of R181 last. -/
def romDecode (ws : List RomWord) : Except RomError (List Descriptor) :=
  match romDescriptors ws.length ws with
  | .error e => .error e
  | .ok c =>
    match catalogFailure c with
    | some k => .error (.check k)
    | none => .ok c

/-- The field word of a field (R99). -/
def romFieldWord (f : FieldSpec) : BitVec 64 :=
  f.mant.setWidth 64 <<< 32 ||| f.fmt.setWidth 64 <<< 24 ||| BitVec.ofNat 64 f.shift <<< 12
    ||| (if f.sgn then 1#64 else 0#64) <<< 11 ||| BitVec.ofNat 64 f.wid <<< 8 ||| BitVec.ofNat 64 f.off

/-- FIXLEN in bits [15:8] and VAR in bit 16 of a descriptor word (R98). -/
def romLength : BodyLength → BitVec 32
  | .fixed n => n.setWidth 32 <<< 8
  | .anyLength => 1#32 <<< 16

/-- The descriptor word of a descriptor (R98). -/
def romDescriptorWord (d : Descriptor) : BitVec 32 :=
  BitVec.ofNat 32 d.fields.length <<< 24 ||| romLength d.fixed ||| d.opcode.setWidth 32

/-- The image of a catalog: its descriptors in declaration order (R98). -/
def romEncode (c : List Descriptor) : List RomWord :=
  c.flatMap fun d => .descriptor (romDescriptorWord d) :: d.fields.map fun f => .field (romFieldWord f)

end Sys2Proof.Machine
end

