-- ==== Sys2Proof/Safety.lean ====
section
/-! DEFINITION. The terms in which claims are stated: the invariant of the reachable states (spec/10_state.md R48),
sequences of transactions, which buffer bytes are written, and the map's holes and writable bytes. -/

namespace Sys2Proof.Machine

/-! ### Sequences of transactions -/

/-- The transactions of a list one after the other, stopping at the first fault or refusal
(spec/20_memory.md R78). -/
def execAll : List Instr → State → Host.Outcome State Fault Refusal
  | [], s => .next s
  | i :: is, s =>
    match exec i s with
    | .next t => execAll is t
    | .fault r => .fault r
    | .refused r => .refused r

/-- The receive steps of a byte sequence (spec/43_receiver.md R155). -/
def receiveAll (raw : List Byte) : List Instr := raw.map Instr.rxb

/-- A byte sequence with bit `k` of byte `i` flipped (spec/41_checksum.md R135). -/
def flipBit (raw : List Byte) (i k : Nat) : List Byte :=
  raw.modify i fun b => b ^^^ BitVec.twoPow 8 k

/-- How many bytes of `raw` the FSM consumes before it closes (spec/43_receiver.md R155). -/
def consumedBytes (raw : List Byte) : FrameVerdict → Nat
  | .accept _ n => n
  | .fail .badBodyChecksum => 5 + (seqByte raw 2).toNat
  | .fail .badAck => 4
  | .fail .badHeaderChecksum => 4
  | .fail _ => raw.length

/-- So many steps, stopping at the first fault or refusal (spec/70_reset_and_hazards.md R263). -/
def runSteps : Nat → State → Host.Outcome State Fault Refusal
  | 0, s => .next s
  | n + 1, s =>
    match step s with
    | .next t => runSteps n t
    | .fault r => .fault r
    | .refused r => .refused r

/-- The run of a sequence of transaction words, presented in their order and nothing after them (R263). -/
def runWords (ws : List Htw) (s : State) : Host.Outcome State Fault Refusal :=
  runSteps ws.length { s with pending := ws.map HostEvent.transaction }

/-! ### Buffer bytes -/

/-- Every buffer byte outside the `n` cells from `a` upwards reads the same in both states. -/
def SameOutside (s t : State) (a n : Nat) : Prop :=
  ∀ x, ¬ (a ≤ x ∧ x < a + n) → t.bufByte x = s.bufByte x

/-- The `n` buffer cells from `a` upwards have been written since reset. -/
def Written (s : State) (a n : Nat) : Prop :=
  ∀ i, i < n → (Memory.find? s.mem (a + i)).isSome = true

/-- Whether a location is one of the four buffers. -/
def Loc.isBuffer : Loc → Bool
  | .rxbuf | .ebuf | .txbuf | .fout => true
  | .cmd | .arg | .status | .rxst | .rxec | .rxcnt | .rxd | .eOpcode | .eLen | .txlen | .xOff | .xWid
  | .xSgn | .xShift | .xMant | .xRaw | .xRsh | .xScaled | .fcnt => false

/-- Whether a host address belongs to a buffer (spec/20_memory.md R71). -/
def isBufferAddr (a : Nat) : Bool := addressMap.any fun r => r.loc.isBuffer && r.covers a

/-! ### The map as claims name it (spec/20_memory.md R71) -/

/-- The addresses that R71 does not list. -/
def UnmappedAddr (a : Nat) : Prop :=
  a = 0x0005 ∨ (0x0009 ≤ a ∧ a ≤ 0x000F) ∨ a = 0x0011 ∨ (0x0016 ≤ a ∧ a ≤ 0x001F) ∨
  (0x002D ≤ a ∧ a ≤ 0x002F) ∨ (0x0038 ≤ a ∧ a ≤ 0x003F) ∨ (0x0041 ≤ a ∧ a ≤ 0x00FF) ∨
  (0x0204 ≤ a ∧ a ≤ 0x02FF) ∨ a = 0x03FF ∨ (0x0504 ≤ a ∧ a ≤ 0x0FFF) ∨ 0x1FF0 ≤ a

/-- The bits that a host write stores at an R/W address; none at any other address (spec/10_state.md R24, R30, R31,
R33 to R37, R43). -/
def writableBits (a : Nat) : Option Byte :=
  if a = 0x0001 ∨ a = 0x0010 ∨ a = 0x0012 ∨ a = 0x0013 ∨ a = 0x0020 ∨ a = 0x0021 ∨
      (0x0024 ≤ a ∧ a ≤ 0x0027) ∨ (0x0300 ≤ a ∧ a ≤ 0x03FE) then some 0xFF#8
  else if a = 0x0022 then some 0x01#8
  else if a = 0x0023 then some 0x3F#8
  else none

/-! ### The invariant (spec/10_state.md R46, R48) -/

/-- The header in RXBUF has verified: its marker is RESP_MARKER and its checksum is right (R48). -/
def HeaderVerified (s : State) : Prop :=
  s.rxbuf 0 = s.respMarker ∧ s.rxbuf 3 = headerChecksum (s.rxbuf 1) (s.rxbuf 2)

/-- The first `n` bytes of the frame's body (R48). -/
def State.bodyPrefix (s : State) (n : Nat) : List Byte := s.bufBytes (rxbufAddr 4) n

/-- What holds of the receiver in each FSM state (R46, R48). -/
def ReceiverInv (s : State) : Prop :=
  match s.rxState with
  | .idle => s.rxcnt.toNat = 0 ∧ s.rxec = .ok ∧ s.rxsum = 0x00#8
  | .hdr => 1 ≤ s.rxcnt.toNat ∧ s.rxcnt.toNat ≤ 3 ∧ s.rxec = .ok
  | .body =>
    HeaderVerified s ∧ 1 ≤ s.frameLength ∧ 4 ≤ s.rxcnt.toNat ∧ s.rxcnt.toNat < 4 + s.frameLength ∧
      s.rxsum = ck8 (s.bodyPrefix (s.rxcnt.toNat - 4)) ∧ s.rxec = .ok
  | .ckb =>
    HeaderVerified s ∧ s.rxcnt.toNat = 4 + s.frameLength ∧ s.rxsum = ck8 s.frameBody ∧ s.rxec = .ok
  | .done =>
    HeaderVerified s ∧ s.rxcnt.toNat = 5 + s.frameLength ∧
      s.rxbuf (4 + s.frameLength) = ck8 s.frameBody ∧ s.rxsum = ck8 s.frameBody ∧ s.rxec = .ok
  | .err =>
    s.rxec = .truncatedFrame ∨ s.rxec = .badAck ∨ s.rxec = .badHeaderChecksum ∨
      s.rxec = .badBodyChecksum

/-- Whether a code is one of the two that no step writes (spec/60_exceptions.md R238). -/
def StatusCode.reserved : StatusCode → Bool
  | .responseTimeout | .linkError => true
  | .ok | .unknownCommand | .bodyTooLarge | .truncatedFrame | .badAck | .badHeaderChecksum
  | .badBodyChecksum | .unexpectedBodyLength | .fieldOutOfRange | .unexpectedOpcode | .noFrame
  | .rxClosed | .badFieldSpec | .illegalCommand => false

/-- The invariant of every state a run reaches (R48), with what the model adds: the memory's canonical form, every
listed address in a buffer, and every byte that a count marks valid written since reset (R28, R32, R41). -/
structure Inv (s : State) : Prop where
  catalog_wf : catalogWf s.catalog = true
  receiver : ReceiverInv s
  rxcnt_le : s.rxcnt.toNat ≤ 260
  rxx_closed : s.rxx = true → s.rxState = .done ∨ s.rxState = .err
  txlen_range : s.txlen.toNat = 0 ∨ (5 ≤ s.txlen.toNat ∧ s.txlen.toNat ≤ 260)
  status_possible : s.status.reserved = false
  mem_wf : Memory.wf s.mem = true
  mem_in_buffers : ∀ c ∈ s.mem, isBufferAddr c.1 = true
  rxbuf_written : Written s (rxbufAddr 0) s.rxcnt.toNat
  txbuf_written : Written s (txbufAddr 0) s.txlen.toNat
  fout_written : Written s (foutAddr 0) (16 * s.fcnt.toNat)

end Sys2Proof.Machine
end

