-- ==== Sys2Proof/Certificates/Slice0/Obligations.lean ====
section
/-! DEFINITION. The statements for the provers.  Each docstring names the rule of spec/ that a statement formalises. -/

open Sys2Proof Sys2Proof.Machine

/-! ### Transaction words (spec/30_encoding.md) -/

/-- Decoding the word of a well-formed instruction gives it back, every operand at every value (R90, R91, R96). -/
def Obligations.DecodeEncodeRoundTrip : Prop :=
  ∀ i : Instr, i.wellFormed = true → decode (encode i) = .ok i

/-- Every word that decodes is the word of a well-formed instruction: no two words share a meaning, no bit is
dropped (R90, R91, R96). -/
def Obligations.EncodeDecodeRoundTrip : Prop :=
  ∀ (w : Htw) (i : Instr), decode w = .ok i → i.wellFormed = true ∧ encode i = w

/-- R91, with the command codes of R96: what every word decodes as, that every other word is refused, and that the
row decoded is the matching row of the opcode table with the most bits set in its mask. -/
def Obligations.DecodeClassifiesEveryWord : Prop :=
  ∀ w : Htw,
    (htwKind w = 0b00#2 → decode w = .ok (.idle (htwIgnored w))) ∧
    (htwKind w = 0b01#2 → htwRsv w = 0#6 →
      (htwAddr w = 0x0000#16 → htwData w = 0x01#8 → decode w = .ok .clr) ∧
      (htwAddr w = 0x0000#16 → htwData w = 0x02#8 → decode w = .ok .rxeof) ∧
      (htwAddr w = 0x0000#16 → htwData w = 0x03#8 → decode w = .ok .enc) ∧
      (htwAddr w = 0x0000#16 → htwData w = 0x04#8 → decode w = .ok .fx) ∧
      (htwAddr w = 0x0000#16 → htwData w = 0x05#8 → decode w = .ok .fdec) ∧
      (htwAddr w = 0x0000#16 → htwData w = 0x00#8 ∨ 0x06#8 ≤ htwData w →
        decode w = .ok (.illcmd (htwData w))) ∧
      (htwAddr w = 0x0008#16 → decode w = .ok (.rxb (htwData w))) ∧
      (htwAddr w ≠ 0x0000#16 → htwAddr w ≠ 0x0008#16 → decode w = .ok (.wr (htwAddr w) (htwData w)))) ∧
    (htwKind w = 0b10#2 → htwRsv w = 0#6 → htwData w = 0x00#8 → decode w = .ok (.rd (htwAddr w))) ∧
    (htwKind w = 0b11#2 ∨ (htwKind w ≠ 0b00#2 ∧ htwRsv w ≠ 0#6) ∨ (htwKind w = 0b10#2 ∧ htwData w ≠ 0x00#8) →
      ∃ e, decode w = .error e) ∧
    (∀ i, decode w = .ok i → (mostSpecificRow w).map TableRow.mnemonic = some i.mnemonic) ∧
    (∀ e, decode w = .error e → mostSpecificRow w = none)

/-- The decoding vectors DEC-01 to DEC-17 of spec/95_test_vectors.md 3.7. -/
def Obligations.DecodeSampleWords : Prop :=
  decode 0x00000000#32 = .ok (.idle 0#30) ∧
  decode 0x3F123456#32 = .ok (.idle 0x3F123456#30) ∧
  decode 0x40000001#32 = .ok .clr ∧
  decode 0x40000002#32 = .ok .rxeof ∧
  decode 0x40000003#32 = .ok .enc ∧
  decode 0x40000004#32 = .ok .fx ∧
  decode 0x40000005#32 = .ok .fdec ∧
  decode 0x40000000#32 = .ok (.illcmd 0x00#8) ∧
  decode 0x400000FF#32 = .ok (.illcmd 0xFF#8) ∧
  decode 0x40000855#32 = .ok (.rxb 0x55#8) ∧
  decode 0x40000100#32 = .ok (.wr 0x0001#16 0x00#8) ∧
  decode 0x40FFFF12#32 = .ok (.wr 0xFFFF#16 0x12#8) ∧
  decode 0x80000200#32 = .ok (.rd 0x0002#16) ∧
  decode 0x80000201#32 = .error .readDataNotZero ∧
  decode 0x41000000#32 = .error .reservedNotZero ∧
  decode 0xC0000000#32 = .error .illegalKind ∧
  decode 0x81000200#32 = .error .reservedNotZero

/-- R101: `WR a, d` and `RD a` encode as the words the decoder reads as those writes and reads. -/
def Obligations.AssembledWordsDecode : Prop :=
  (∀ (a : Addr) (d : Byte), asmWr a d = htwOf 0b01#2 a d) ∧
  (∀ a : Addr, decode (asmRd a) = .ok (.rd a)) ∧
  (∀ (a : Addr) (d : Byte), a ≠ 0x0000#16 → a ≠ 0x0008#16 → decode (asmWr a d) = .ok (.wr a d)) ∧
  (∀ b : Byte, decode (asmRxb b) = .ok (.rxb b))

/-- The catalog's ROM image holds the catalog: reading back the image of a well-formed catalog gives it again, every
field of every word at every value (R98, R99). -/
def Obligations.RomImageRoundTrip : Prop :=
  ∀ c : List Descriptor, catalogWf c = true → romDecode (romEncode c) = .ok c

/-! ### One step (spec/00_scope.md R6, spec/20_memory.md R78) -/

/-- When the word presented decodes to `i`, the step is `exec i` in the state that no longer has the word pending
(R6, R78, R90; the pending words are the model's own, log 1). -/
def Obligations.StepPerformsDecodedTransaction : Prop :=
  ∀ (s : State) (w : Htw) (rest : List HostEvent) (i : Instr),
    catalogWf s.catalog = true → s.pending = .transaction w :: rest → decode w = .ok i →
      step s = exec i { s with pending := rest }

/-- A word that does not decode has no step (R91, R97 b, U6).  That the word stands in `pending` and the reason that
the refusal names are the model's choice (logs 1 and 7). -/
def Obligations.StepRefusesUndecodableWord : Prop :=
  ∀ (s : State) (w : Htw) (rest : List HostEvent) (e : DecodeError),
    catalogWf s.catalog = true → s.pending = .transaction w :: rest → decode w = .error e →
      step s = .refused (.illegalTransaction e)

/-- With nothing presented the block holds its state (R120, R237; the model's reading, log 1). -/
def Obligations.StepHoldsStateOnIdleBus : Prop :=
  ∀ s : State, catalogWf s.catalog = true → s.pending = [] → step s = .next s

/-- No block is configured with a catalog that fails a check of R181 (U8): such a state has no step.  That the reason
is this one whatever is pending is the model's choice (logs 6 and 15). -/
def Obligations.StepRefusesIllFormedCatalog : Prop :=
  ∀ s : State, catalogWf s.catalog = false → step s = .refused .illFormedCatalog

/-- Reset between two transactions: every register at its reset value, every buffer byte unspecified (a free value
of the new reset count, log 2), configuration kept (R250, R251).  That the events still pending and the bytes read
are kept is the model's choice (log 9, over the model's own fields of logs 1 and 4). -/
def Obligations.ResetEventResetsEveryRegister : Prop :=
  ∀ (s : State) (rest : List HostEvent), catalogWf s.catalog = true → s.pending = .reset :: rest →
    ∃ t, step s = .next t ∧
      t.arg = 0x00#8 ∧ t.status = .ok ∧ t.rxec = .ok ∧ t.eOpcode = 0x00#8 ∧ t.xOff = 0x00#8 ∧
      t.xSgn = false ∧ t.xShift = 0#6 ∧ t.xRsh = 0#6 ∧ t.fcnt = 0x00#8 ∧
      t.rxState = .idle ∧ t.rxx = false ∧ t.rxcnt = 0x0000#16 ∧ t.eLen = 0x0000#16 ∧ t.txlen = 0x0000#16 ∧
      t.xWid = 0x01#8 ∧ t.xMant = 0x00000001#32 ∧ t.xRaw = 0x00000000#32 ∧
      t.xScaled = 0x0000000000000000#64 ∧ t.rxsum = 0x00#8 ∧
      (∀ a, t.bufByte a = Config.unwrittenByte (s.epoch + 1) a) ∧
      t.catalog = s.catalog ∧ t.respMarker = s.respMarker ∧ t.pending = rest ∧ t.reads = s.reads

/-- A configured block starts at the reset values that software reads (R250, R252; HA-01, HA-02), with the marker and
the catalog it was given. -/
def Obligations.ConfiguredBlockStartsAtReset : Prop :=
  ∀ (m : Byte) (c : List Descriptor), catalogWf c = true →
    ∃ t, configure m c = .ok t ∧ t.respMarker = m ∧ t.catalog = c ∧ t.rxsum = 0x00#8 ∧
      (∀ a : Addr, a.toNat < 0x0100 → a ≠ 0x0021#16 → a ≠ 0x0024#16 → memRead a t = 0x00#8) ∧
      memRead 0x0021#16 t = 0x01#8 ∧ memRead 0x0024#16 t = 0x01#8

/-! ### Host access (spec/40_host_access.md, spec/20_memory.md) -/

/-- R120: every word with KIND 00 is IDLE, whatever its other bits, and IDLE changes nothing. -/
def Obligations.IdleChangesNothing : Prop :=
  (∀ w : Htw, htwKind w = 0b00#2 → ∃ g, decode w = .ok (.idle g)) ∧
  ∀ (g : BitVec 30) (s : State), exec (.idle g) s = .next s

/-- RD gives the host the byte MemRead names and changes nothing else (R121; the host's record is log 4). -/
def Obligations.ReadGivesByteAndKeepsState : Prop :=
  ∀ (a : Addr) (s : State),
    ∃ t, exec (.rd a) s = .next t ∧ t = { s with reads := s.reads ++ [memRead a s] } ∧
      t.reads.getLast? = some (memRead a s) ∧ ∀ x, t.bufByte x = s.bufByte x

/-- What MemRead returns at every address of the map and at every unmapped one, little-endian (R71, R72, R74, with
R23 to R46). -/
def Obligations.BusReadFollowsAddressMap : Prop :=
  ∀ s : State,
    memRead 0x0000#16 s = 0x00#8 ∧ memRead 0x0001#16 s = s.arg ∧
    (memRead 0x0002#16 s).toNat = s.status.code.toNat ∧
    (memRead 0x0003#16 s).toNat = s.rxState.code.toNat + (if s.rxx then 128 else 0) ∧
    (memRead 0x0004#16 s).toNat = s.rxec.code.toNat ∧
    leValue [memRead 0x0006#16 s, memRead 0x0007#16 s] = s.rxcnt.toNat ∧
    memRead 0x0008#16 s = 0x00#8 ∧ memRead 0x0010#16 s = s.eOpcode ∧
    leValue [memRead 0x0012#16 s, memRead 0x0013#16 s] = s.eLen.toNat ∧
    leValue [memRead 0x0014#16 s, memRead 0x0015#16 s] = s.txlen.toNat ∧
    memRead 0x0020#16 s = s.xOff ∧ memRead 0x0021#16 s = s.xWid ∧
    (memRead 0x0022#16 s).toNat = (if s.xSgn then 1 else 0) ∧
    (memRead 0x0023#16 s).toNat = s.xShift.toNat ∧
    leValue ((List.range 4).map fun k => memRead (BitVec.ofNat 16 (0x0024 + k)) s) = s.xMant.toNat ∧
    leValue ((List.range 4).map fun k => memRead (BitVec.ofNat 16 (0x0028 + k)) s) = s.xRaw.toNat ∧
    (memRead 0x002C#16 s).toNat = s.xRsh.toNat ∧
    leValue ((List.range 8).map fun k => memRead (BitVec.ofNat 16 (0x0030 + k)) s) = s.xScaled.toNat ∧
    memRead 0x0040#16 s = s.fcnt ∧
    (∀ i, i < 260 → memRead (BitVec.ofNat 16 (0x0100 + i)) s = s.rxbuf i) ∧
    (∀ i, i < 255 → memRead (BitVec.ofNat 16 (0x0300 + i)) s = s.ebuf i) ∧
    (∀ i, i < 260 → memRead (BitVec.ofNat 16 (0x0400 + i)) s = s.txbuf i) ∧
    (∀ i k, i < 255 → k < 16 → memRead (BitVec.ofNat 16 (0x1000 + 16 * i + k)) s = s.bufByte (foutAddr i + k)) ∧
    (∀ a : Addr, UnmappedAddr a.toNat → memRead a s = 0x00#8)

/-- Reads are idempotent and have no side effects: after any reads, every address reads as before (R77).  That the
bytes read are appended to `reads` is the model's choice (log 4). -/
def Obligations.ReadsHaveNoSideEffects : Prop :=
  ∀ (as : List Addr) (s : State),
    ∃ t, execAll (as.map Instr.rd) s = .next t ∧ t = { s with reads := s.reads ++ as.map fun a => memRead a s } ∧
      ∀ b : Addr, memRead b t = memRead b s

/-- WR at every address but CMD and RXD (R122): an R/W byte takes the written bits that it has, every other location
and everything that no location shows stays; at any other address nothing changes. -/
def Obligations.WriteStoresOnlyItsByte : Prop :=
  ∀ (a : Addr) (d : Byte) (s : State), a ≠ 0x0000#16 → a ≠ 0x0008#16 →
    decode (0x40000000#32 ||| a.setWidth 32 <<< 8 ||| d.setWidth 32) = .ok (.wr a d) ∧
    ∃ t, exec (.wr a d) s = .next t ∧
      (∀ m, writableBits a.toNat = some m → memRead a t = d &&& m) ∧
      (writableBits a.toNat = none → t = s) ∧
      (∀ b : Addr, b ≠ a → memRead b t = memRead b s) ∧
      t.status = s.status ∧ t.rxState = s.rxState ∧ t.rxsum = s.rxsum ∧ t.respMarker = s.respMarker ∧
      t.catalog = s.catalog ∧ t.pending = s.pending ∧ t.reads = s.reads ∧ t.epoch = s.epoch ∧
      SameOutside s t a.toNat 1

/-- The bus write MemWrite and the decoder agree: a write performs the instruction its word decodes to, commands and
receive steps among them (R72, R91). -/
def Obligations.BusWritePerformsDecodedWrite : Prop :=
  ∀ (a : Addr) (d : Byte) (s : State) (i : Instr), decode (htwOf 0b01#2 a d) = .ok i →
    exec i s = memWrite a d s

/-- R123: a write of an undefined command code sets STATUS.CODE to IllegalCommand, always, and nothing else. -/
def Obligations.IllegalCommandSetsOnlyStatus : Prop :=
  ∀ (c : Byte) (s : State), c = 0x00#8 ∨ 0x06#8 ≤ c →
    decode (0x40000000#32 ||| c.setWidth 32) = .ok (.illcmd c) ∧
    exec (.illcmd c) s = .next { s with status := .illegalCommand } ∧
    StatusCode.illegalCommand.code = 15#4

/-- R124: CLR clears the receiver and FCNT in any state, and leaves every buffer, TXLEN, the FX results and every
host-written register. -/
def Obligations.ClearResetsReceiver : Prop :=
  decode 0x40000001#32 = .ok .clr ∧
  ∀ s : State,
    ∃ t, exec .clr s = .next t ∧
      t = { s with rxState := .idle, rxx := false, rxec := .ok, rxcnt := 0x0000#16, rxsum := 0x00#8,
                   fcnt := 0x00#8, status := .ok } ∧
      (∀ x, t.bufByte x = s.bufByte x) ∧
      memRead 0x0002#16 t = 0x00#8 ∧ memRead 0x0003#16 t = 0x00#8 ∧ memRead 0x0004#16 t = 0x00#8

/-- R102: the pseudo-instruction SEND, presented word by word, writes its operands and builds the frame of R141; the
steps are those of the words it expands to.  That the words stand in `pending` is the model's choice (log 1). -/
def Obligations.SendLineBuildsRequest : Prop :=
  ∀ (s : State) (op : Byte) (bs : List Byte), catalogWf s.catalog = true → bs.length ≤ 255 →
    ∃ t, runWords (AsmLine.send op bs).words s = .next t ∧ t.status = .ok ∧ t.eOpcode = op ∧
      t.eLen.toNat = bs.length ∧ t.txlen.toNat = bs.length + 5 ∧
      ∀ i, i < bs.length + 5 → some (t.txbuf i) = (encodeFrame op bs)[i]?

/-- R102: the pseudo-instruction SETFX, presented word by word, sets the X_ operands and no other register or buffer.
That the words stand in `pending` and are gone at the end is the model's choice (log 1). -/
def Obligations.SetFxLineSetsOperands : Prop :=
  ∀ (s : State) (off wid sgn shift : Byte) (mant : Int), catalogWf s.catalog = true →
    runWords (AsmLine.setFx off wid sgn mant shift).words s =
      .next { s with xOff := off, xWid := wid, xSgn := sgn.getLsbD 0, xMant := BitVec.ofInt 32 mant,
                     xShift := shift.setWidth 6, pending := [] }

/-! ### Checksums (spec/41_checksum.md) -/

/-- R130, R133: CK8 is the sum modulo 256, 0x00 for the empty sequence, and does not depend on the order. -/
def Obligations.ChecksumIsModularSum : Prop :=
  (∀ s : List Byte, (ck8 s).toNat = (s.map BitVec.toNat).sum % 256) ∧
  ck8 [] = 0x00#8 ∧
  ∀ s t : List Byte, s.Perm t → ck8 s = ck8 t

/-- R135: flip exactly one bit of a frame that the FSM accepts and the FSM rejects it, with BadAck, BadHeaderChecksum
or BadBodyChecksum by the byte flipped. -/
def Obligations.SingleBitFlipIsRejected : Prop :=
  ∀ (s t : State) (raw : List Byte) (i k : Nat),
    s.rxState = .idle → s.rxcnt.toNat = 0 →
    execAll (receiveAll raw) s = .next t → t.rxState = .done → t.rxcnt.toNat = raw.length →
    i < raw.length → k < 8 →
      ∃ u, execAll (receiveAll (flipBit raw i k)) s = .next u ∧ u.rxState = .err ∧
        u.rxec = (if i = 0 then StatusCode.badAck else if i ≤ 3 then .badHeaderChecksum else .badBodyChecksum)

/-! ### The encoder (spec/42_encoder.md) -/

/-- R141, with the layout of R92 and the checksums of R131 and R132: the bytes of an encoded frame. -/
def Obligations.EncodedFrameLayout : Prop :=
  ∀ (op : Byte) (body : List Byte), body.length ≤ 255 →
    (encodeFrame op body).length = body.length + 5 ∧
    (encodeFrame op body)[0]? = some 0x3E#8 ∧
    (encodeFrame op body)[1]? = some op ∧
    ((encodeFrame op body)[2]?.map BitVec.toNat) = some body.length ∧
    ((encodeFrame op body)[3]?.map BitVec.toNat) = some ((op.toNat + body.length) % 256) ∧
    (∀ i, i < body.length → (encodeFrame op body)[4 + i]? = body[i]?) ∧
    ((encodeFrame op body)[4 + body.length]?.map BitVec.toNat) = some ((body.map BitVec.toNat).sum % 256)

/-- R140: ENC with E_LEN at most 255 builds the frame of R141 in TXBUF and nothing else changes but TXLEN and
STATUS; with E_LEN above 255 it writes TXLEN and STATUS alone. -/
def Obligations.EncodeBuildsFrameOrFails : Prop :=
  decode 0x40000003#32 = .ok .enc ∧
  ∀ s : State,
    (s.eLen.toNat ≤ 255 →
      ∃ t, exec .enc s = .next t ∧
        t = { s with mem := t.mem, txlen := t.txlen, status := .ok } ∧
        t.txlen.toNat = s.eLen.toNat + 5 ∧
        (∀ i, i < s.eLen.toNat + 5 →
          some (t.txbuf i) = (encodeFrame s.eOpcode ((List.range s.eLen.toNat).map s.ebuf))[i]?) ∧
        SameOutside s t (txbufAddr 0) (s.eLen.toNat + 5)) ∧
    (255 < s.eLen.toNat → exec .enc s = .next { s with txlen := 0x0000#16, status := .bodyTooLarge })

/-- R142: the block's own frames are accepted where RESP_MARKER is 0x3E, and fail with BadAck when their fourth byte
arrives elsewhere. -/
def Obligations.EncodedFrameIsAcceptedByReceiver : Prop :=
  ∀ (s : State) (op : Byte) (body : List Byte),
    body.length ≤ 255 → s.rxState = .idle → s.rxcnt.toNat = 0 →
      (s.respMarker = 0x3E#8 →
        ∃ t, execAll (receiveAll (encodeFrame op body)) s = .next t ∧ t.rxState = .done ∧ t.rxbuf 1 = op ∧
          t.frameBody = body) ∧
      (s.respMarker ≠ 0x3E#8 →
        (∃ t, execAll (receiveAll ((encodeFrame op body).take 3)) s = .next t ∧ t.rxState = .hdr) ∧
        ∃ t, execAll (receiveAll ((encodeFrame op body).take 4)) s = .next t ∧ t.rxState = .err ∧
          t.rxec = .badAck)

/-! ### The receiver (spec/43_receiver.md) -/

/-- R158: a byte received in DONE or ERR sets RXX and STATUS.CODE and changes nothing else. -/
def Obligations.ReceiveIsDroppedWhenClosed : Prop :=
  ∀ (b : Byte) (s : State), s.rxState = .done ∨ s.rxState = .err →
    exec (.rxb b) s = .next { s with rxx := true, status := .rxClosed }

/-- R153 as the step of R152 applies it: the receive step in the four states that store the byte, what each writes,
and the one cell of memory that changes. -/
def Obligations.ReceiveStoresByteAndAdvances : Prop :=
  ∀ (b : Byte) (s : State), s.rxcnt.toNat < 260 → s.rxState ≠ .done → s.rxState ≠ .err →
    ∃ t, exec (.rxb b) s = .next t ∧ t.rxcnt.toNat = s.rxcnt.toNat + 1 ∧ t.rxbuf s.rxcnt.toNat = b ∧
      SameOutside s t (rxbufAddr s.rxcnt.toNat) 1 ∧
      (s.rxState = .idle ∨ s.rxState = .hdr → s.rxcnt.toNat < 3 →
        t = { s with mem := t.mem, rxcnt := t.rxcnt, rxState := .hdr, status := .ok }) ∧
      (s.rxState = .idle ∨ s.rxState = .hdr → 3 ≤ s.rxcnt.toNat → t.rxbuf 0 ≠ s.respMarker →
        t = { s with mem := t.mem, rxcnt := t.rxcnt, rxState := .err, rxec := .badAck, status := .badAck }) ∧
      (s.rxState = .idle ∨ s.rxState = .hdr → 3 ≤ s.rxcnt.toNat → t.rxbuf 0 = s.respMarker →
        t.rxbuf 3 ≠ ck8 [t.rxbuf 1, t.rxbuf 2] →
        t = { s with mem := t.mem, rxcnt := t.rxcnt, rxState := .err, rxec := .badHeaderChecksum,
                     status := .badHeaderChecksum }) ∧
      (s.rxState = .idle ∨ s.rxState = .hdr → 3 ≤ s.rxcnt.toNat → t.rxbuf 0 = s.respMarker →
        t.rxbuf 3 = ck8 [t.rxbuf 1, t.rxbuf 2] →
        t = { s with mem := t.mem, rxcnt := t.rxcnt, rxsum := 0x00#8, status := .ok,
                     rxState := if t.rxbuf 2 = 0x00#8 then .ckb else .body }) ∧
      (s.rxState = .body →
        t = { s with mem := t.mem, rxcnt := t.rxcnt, rxsum := s.rxsum + b, status := .ok,
                     rxState := if s.rxcnt.toNat + 1 = 4 + (t.rxbuf 2).toNat then .ckb else .body }) ∧
      (s.rxState = .ckb → b = s.rxsum →
        t = { s with mem := t.mem, rxcnt := t.rxcnt, rxState := .done, status := .ok }) ∧
      (s.rxState = .ckb → b ≠ s.rxsum →
        t = { s with mem := t.mem, rxcnt := t.rxcnt, rxState := .err, rxec := .badBodyChecksum,
                     status := .badBodyChecksum })

/-- RXB stops exactly where it would store past RXBUF, the model's own fault (log 5). -/
def Obligations.ReceiveFaultsOnlyPastBuffer : Prop :=
  ∀ (b : Byte) (s : State),
    (exec (.rxb b) s = .fault .rxBufferOverrun ↔
      260 ≤ s.rxcnt.toNat ∧ s.rxState ≠ .done ∧ s.rxState ≠ .err)

/-- R154: RXEOF in every FSM state. -/
def Obligations.EndOfInputVerdict : Prop :=
  decode 0x40000002#32 = .ok .rxeof ∧
  ∀ s : State,
    (s.rxState ≠ .done → s.rxState ≠ .err →
      exec .rxeof s = .next { s with rxState := .err, rxec := .truncatedFrame, status := .truncatedFrame }) ∧
    (s.rxState = .done → exec .rxeof s = .next { s with status := .ok }) ∧
    (s.rxState = .err → exec .rxeof s = .next { s with status := s.rxec })

/-- R155: the byte-serial FSM agrees with the whole-sequence contract of R150 on every byte sequence. -/
def Obligations.ReceiverAgreesWithDecodeFrame : Prop :=
  ∀ (s : State) (raw : List Byte),
    s.rxState = .idle → s.rxcnt.toNat = 0 → s.rxx = false →
      ∃ t, execAll (receiveAll raw ++ [.rxeof]) s = .next t ∧
        (t.rxx = true ↔ consumedBytes raw (decodeFrame s.respMarker raw) < raw.length) ∧
        (∀ e, decodeFrame s.respMarker raw = .fail e → t.status = e ∧ t.rxState = .err ∧ t.rxec = e) ∧
        (∀ f n, decodeFrame s.respMarker raw = .accept f n →
          t.status = .ok ∧ t.rxState = .done ∧ n = 5 + f.bodyLength.toNat ∧
          ∀ i, i < n → some (t.rxbuf i) = raw[i]?)

/-- R157: in DONE and ERR no byte sequence moves the FSM, changes its verdict or touches the received frame, and no
transaction but CLR moves it. -/
def Obligations.ReceiverNeverResynchronises : Prop :=
  ∀ s : State, s.rxState = .done ∨ s.rxState = .err →
    (∀ raw : List Byte,
      ∃ t, execAll (receiveAll raw) s = .next t ∧ t.rxState = s.rxState ∧ t.rxec = s.rxec ∧
        t.rxcnt = s.rxcnt ∧ t.mem = s.mem) ∧
    ∀ (i : Instr) (t : State), i.wellFormed = true → i ≠ .clr → exec i s = .next t →
      t.rxState = s.rxState ∧ t.rxec = s.rxec ∧ t.rxcnt = s.rxcnt ∧ ∀ j, j < 260 → t.rxbuf j = s.rxbuf j

/-- R26: only a byte that arrives in DONE or ERR sets RXX. -/
def Obligations.OnlyDroppedByteSetsRxx : Prop :=
  ∀ (i : Instr) (s t : State), i.wellFormed = true → exec i s = .next t → s.rxx = false → t.rxx = true →
    (∃ b, i = .rxb b) ∧ (s.rxState = .done ∨ s.rxState = .err)

/-! ### The catalog (spec/44_fields.md R180 to R182) -/

/-- R181: the checks of a catalog, each as the rule states it; a configuration that fails one is refused by that
check's name. -/
def Obligations.CatalogChecksAreTheRules : Prop :=
  ∀ c : List Descriptor,
    (catalogWf c = true ↔
      c.Pairwise (fun d e => d.opcode ≠ e.opcode) ∧
      ∀ d ∈ c,
        (∀ f ∈ d.fields, 1 ≤ f.wid ∧ f.wid ≤ 4 ∧ f.shift ≤ 63 ∧ f.off + f.wid ≤ 255 ∧
          ∀ n, d.fixed = .fixed n → f.off + f.wid ≤ n.toNat) ∧
        d.fields.Pairwise (fun f g =>
          ∀ x, ¬ ((f.off ≤ x ∧ x < f.off + f.wid) ∧ (g.off ≤ x ∧ x < g.off + g.wid))) ∧
        d.fields.length ≤ 255) ∧
    (catalogWf c = false → ∀ m, ∃ k, configure m c = .error k ∧ k.passes c = false)

/-- R181, CAT_NFIELDS: the 255-field bound follows from the ranges and the disjointness of the fields. -/
def Obligations.DisjointFieldsAreAtMost255 : Prop :=
  ∀ fs : List FieldSpec,
    (∀ f ∈ fs, 1 ≤ f.wid ∧ f.off + f.wid ≤ 255) → pairwiseHolds fieldsDisjoint fs = true → fs.length ≤ 255

/-- R182: Lookup returns the unique descriptor with the opcode, or none where no descriptor has it. -/
def Obligations.LookupFindsTheDescriptor : Prop :=
  ∀ (c : List Descriptor) (op : Byte), catalogWf c = true →
    (∀ d, lookup c op = some d ↔ d ∈ c ∧ d.opcode = op) ∧
    (lookup c op = none ↔ ∀ d ∈ c, d.opcode ≠ op)

/-! ### Field extraction (spec/44_fields.md) -/

/-- R183: FieldBits is the little-endian sum of the field's bytes, below 2^(8*wid). -/
def Obligations.FieldBitsLittleEndian : Prop :=
  ∀ (body : List Byte) (off wid : Nat), off + wid ≤ body.length →
    fieldBits body off wid = ∑ k ∈ Finset.range wid, (body.getD (off + k) 0x00#8).toNat * 256 ^ k ∧
    fieldBits body off wid < 2 ^ (8 * wid)

/-- R184: the raw value, its range, its 32-bit pattern and how a reader recovers it. -/
def Obligations.RawValueTwosComplement : Prop :=
  ∀ v wid : Nat, 1 ≤ wid → wid ≤ 4 → v < 2 ^ (8 * wid) →
    (rawValue v wid false = v ∧ 0 ≤ rawValue v wid false ∧ rawValue v wid false ≤ 2 ^ (8 * wid) - 1) ∧
    (v < 2 ^ (8 * wid - 1) → rawValue v wid true = v) ∧
    (2 ^ (8 * wid - 1) ≤ v → rawValue v wid true = (v : Int) - 2 ^ (8 * wid)) ∧
    -(2 ^ (8 * wid - 1) : Int) ≤ rawValue v wid true ∧ rawValue v wid true ≤ 2 ^ (8 * wid - 1) - 1 ∧
    BitVec.ofInt 32 (rawValue v wid true) = (BitVec.ofNat (8 * wid) v).signExtend 32 ∧
    BitVec.ofInt 32 (rawValue v wid false) = (BitVec.ofNat (8 * wid) v).setWidth 32 ∧
    ∀ sgn, rawOfPattern sgn (BitVec.ofInt 32 (rawValue v wid sgn)) = rawValue v wid sgn

/-- R185: the scaled product fits in signed 64 bits, so no value is lost. -/
def Obligations.ScaledProductIsExact : Prop :=
  ∀ (v wid : Nat) (sgn : Bool) (mant : BitVec 32), 1 ≤ wid → wid ≤ 4 → v < 2 ^ (8 * wid) →
    (scaledValue (rawValue v wid sgn) mant.toInt = rawValue v wid sgn * mant.toInt) ∧
    (BitVec.ofInt 64 (scaledValue (rawValue v wid sgn) mant.toInt)).toInt = rawValue v wid sgn * mant.toInt ∧
    (rawValue v wid sgn * mant.toInt).natAbs ≤ 2 ^ 63 - 2 ^ 31

/-- R187: FX, its checks in their order and its result; every path leaves all other state, buffers included. -/
def Obligations.ExtractFieldResult : Prop :=
  decode 0x40000004#32 = .ok .fx ∧
  ∀ s : State,
    (s.xWid.toNat < 1 ∨ 4 < s.xWid.toNat → exec .fx s = .next { s with status := .badFieldSpec }) ∧
    (1 ≤ s.xWid.toNat → s.xWid.toNat ≤ 4 →
      (s.rxState ≠ .done → exec .fx s = .next { s with status := .noFrame }) ∧
      (s.rxState = .done → s.xOff.toNat + s.xWid.toNat > (s.rxbuf 2).toNat →
        exec .fx s = .next { s with status := .fieldOutOfRange }) ∧
      (s.rxState = .done → s.xOff.toNat + s.xWid.toNat ≤ (s.rxbuf 2).toNat →
        ∃ (v : Nat) (raw : Int),
          v = ∑ k ∈ Finset.range s.xWid.toNat, (s.rxbuf (4 + s.xOff.toNat + k)).toNat * 256 ^ k ∧
          raw = (if s.xSgn = true ∧ 2 ^ (8 * s.xWid.toNat - 1) ≤ v then (v : Int) - 2 ^ (8 * s.xWid.toNat) else v) ∧
          exec .fx s = .next { s with
            xRaw := BitVec.ofInt 32 raw, xScaled := BitVec.ofInt 64 (raw * s.xMant.toInt),
            xRsh := s.xShift, status := .ok }))

/-- R188, R189: FDEC, its checks in their order and its result: every entry it writes, and that nothing else changes
but FCNT and STATUS. -/
def Obligations.DecodeFieldsResult : Prop :=
  decode 0x40000005#32 = .ok .fdec ∧
  ∀ s : State,
    (lookup s.catalog s.arg = none → exec .fdec s = .next { s with fcnt := 0x00#8, status := .unknownCommand }) ∧
    ∀ d, lookup s.catalog s.arg = some d →
      (s.rxState ≠ .done → exec .fdec s = .next { s with fcnt := 0x00#8, status := .noFrame }) ∧
      (s.rxState = .done → s.rxbuf 1 ≠ s.arg →
        exec .fdec s = .next { s with fcnt := 0x00#8, status := .unexpectedOpcode }) ∧
      (s.rxState = .done → s.rxbuf 1 = s.arg → (∃ n, d.fixed = .fixed n ∧ s.rxbuf 2 ≠ n) →
        exec .fdec s = .next { s with fcnt := 0x00#8, status := .unexpectedBodyLength }) ∧
      (s.rxState = .done → s.rxbuf 1 = s.arg → (∀ n, d.fixed = .fixed n → s.rxbuf 2 = n) →
        (∃ f ∈ d.fields, f.off + f.wid > (s.rxbuf 2).toNat) →
        exec .fdec s = .next { s with fcnt := 0x00#8, status := .fieldOutOfRange }) ∧
      (catalogWf s.catalog = true → s.rxState = .done → s.rxbuf 1 = s.arg →
        (∀ n, d.fixed = .fixed n → s.rxbuf 2 = n) → (∀ f ∈ d.fields, f.off + f.wid ≤ (s.rxbuf 2).toNat) →
        ∃ t, exec .fdec s = .next t ∧ t = { s with mem := t.mem, fcnt := t.fcnt, status := .ok } ∧
          t.fcnt.toNat = d.fields.length ∧
          (∀ i f, d.fields[i]? = some f →
            ∀ k, k < 16 → some (t.bufByte (foutAddr i + k)) = (fieldEntry f s.frameBody).bytes[k]?) ∧
          SameOutside s t (foutAddr 0) (16 * d.fields.length))

/-- R45, R189: what software reads from the FOUT entry of a field after a successful FDEC: FMT, WID, SGN, SHIFT, RAW
and SCALED at their offsets, little-endian. -/
def Obligations.FoutEntryReadsAsEntry : Prop :=
  ∀ (s t : State) (d : Descriptor) (i : Nat) (f : FieldSpec),
    catalogWf s.catalog = true → lookup s.catalog s.arg = some d → d.fields[i]? = some f →
    exec .fdec s = .next t → t.status = .ok →
      let at' := fun k => memRead (BitVec.ofNat 16 (0x1000 + 16 * i + k)) t
      let raw := rawValue (fieldBits s.frameBody f.off f.wid) f.wid f.sgn
      at' 0 = f.fmt ∧ (at' 1).toNat = f.wid ∧ (at' 2).toNat = (if f.sgn then 1 else 0) ∧
      (at' 3).toNat = f.shift ∧
      leValue ((List.range 4).map fun k => at' (4 + k)) = (BitVec.ofInt 32 raw).toNat ∧
      leValue ((List.range 8).map fun k => at' (8 + k)) = (BitVec.ofInt 64 (raw * f.mant.toInt)).toNat

/-- R188's corner case: for a fixed-length descriptor of a well-formed catalog FieldOutOfRange cannot occur. -/
def Obligations.FixedLengthNeverOutOfRange : Prop :=
  ∀ (s t : State) (d : Descriptor) (n : Byte),
    catalogWf s.catalog = true → lookup s.catalog s.arg = some d → d.fixed = .fixed n →
    exec .fdec s = .next t → t.status ≠ .fieldOutOfRange

/-- R190: with no CLR and no RXB between them, two FDECs with the same ARG write the same entries, FCNT and STATUS,
and two FXs with the same X_ registers the same results. -/
def Obligations.FieldDecodingIsIdempotent : Prop :=
  ∀ (s s' : State) (is : List Instr),
    (∀ i ∈ is, i.wellFormed = true ∧ i ≠ .clr ∧ ∀ b, i ≠ .rxb b) → execAll is s = .next s' →
    (∀ t u, s'.arg = s.arg → exec .fdec s = .next t → exec .fdec s' = .next u →
      u.status = t.status ∧ u.fcnt = t.fcnt ∧
      ∀ x, x < 16 * t.fcnt.toNat → u.bufByte (foutAddr 0 + x) = t.bufByte (foutAddr 0 + x)) ∧
    (∀ t u, s'.xOff = s.xOff → s'.xWid = s.xWid → s'.xSgn = s.xSgn → s'.xMant = s.xMant →
      s'.xShift = s.xShift → exec .fx s = .next t → exec .fx s' = .next u →
      u.status = t.status ∧
      (t.status = .ok → u.xRaw = t.xRaw ∧ u.xScaled = t.xScaled ∧ u.xRsh = t.xRsh))

/-- R191: a value that fits a field's width and signedness, placed little-endian in a body, comes back exactly, with
its exact scaled product and its shift. -/
def Obligations.FieldRoundTripIsExact : Prop :=
  ∀ (c : List Descriptor) (d : Descriptor) (f : FieldSpec) (body : List Byte) (x : Int),
    catalogWf c = true → d ∈ c → f ∈ d.fields → f.off + f.wid ≤ body.length →
    (if f.sgn = true then -(2 ^ (8 * f.wid - 1) : Int) ≤ x ∧ x < 2 ^ (8 * f.wid - 1)
      else 0 ≤ x ∧ x < 2 ^ (8 * f.wid)) →
    (∀ k, k < f.wid → body[f.off + k]? = some ((BitVec.ofInt 32 x).extractLsb' (8 * k) 8)) →
      rawOfPattern f.sgn (fieldEntry f body).raw = x ∧
      (fieldEntry f body).scaled.toInt = x * f.mant.toInt ∧
      (fieldEntry f body).shift.toNat = f.shift

/-! ### Whole-machine rules -/

/-- The state of a configured block right after reset meets the invariant of R48, and so does `State.reset`. -/
def Obligations.ResetMeetsInvariant : Prop :=
  Inv State.reset ∧ ∀ (m : Byte) (c : List Descriptor) (t : State), configure m c = .ok t → Inv t

/-- R48: every step, transactions and resets alike, keeps the invariant: the FSM, its counts, its running sum and the
bytes it holds; the canonical memory; the valid parts of the buffers written. -/
def Obligations.StepKeepsInvariant : Prop :=
  ∀ s t : State, Inv s → step s = .next t → Inv t

/-- In a state that meets the invariant no step stops with a fault (R21, R72: nothing in the block can fault). -/
def Obligations.InvariantRulesOutFaults : Prop :=
  ∀ (s : State) (r : Fault), Inv s → step s ≠ .fault r

/-- R47, R5: no step changes CATALOG or RESP_MARKER. -/
def Obligations.ConfigurationNeverChanges : Prop :=
  ∀ s t : State, step s = .next t → t.catalog = s.catalog ∧ t.respMarker = s.respMarker

/-- R238: no step of the block writes ResponseTimeout or LinkError to STATUS or RXEC. -/
def Obligations.ReservedCodesAreNeverWritten : Prop :=
  ∀ s t : State, s.rxec.reserved = false → step s = .next t →
    t.rxec.reserved = false ∧ (t.status.reserved = true → t.status = s.status)

/-- R22, R43: no command and no read writes a host-writable operand register or a byte of EBUF; only WR does. -/
def Obligations.OnlyWriteChangesOperands : Prop :=
  ∀ (i : Instr) (s t : State), (∀ a d, i ≠ .wr a d) → exec i s = .next t →
      t.arg = s.arg ∧ t.eOpcode = s.eOpcode ∧ t.eLen = s.eLen ∧ t.xOff = s.xOff ∧ t.xWid = s.xWid ∧
      t.xSgn = s.xSgn ∧ t.xShift = s.xShift ∧ t.xMant = s.xMant ∧ ∀ j, j < 255 → t.ebuf j = s.ebuf j

/-- R21, R26 to R28, R32, R38 to R42, R44, R45: each result register and buffer is written by the transactions its rule
names and by no other, and RXCNT only rises by one or is cleared. -/
def Obligations.ResultsHaveTheirWriters : Prop :=
  ∀ (i : Instr) (s t : State), i.wellFormed = true → exec i s = .next t →
    (i ≠ .fx → t.xRaw = s.xRaw ∧ t.xScaled = s.xScaled ∧ t.xRsh = s.xRsh) ∧
    (i ≠ .enc → t.txlen = s.txlen ∧ ∀ j, j < 260 → t.txbuf j = s.txbuf j) ∧
    (i ≠ .fdec → ∀ x, x < 4080 → t.bufByte (foutAddr 0 + x) = s.bufByte (foutAddr 0 + x)) ∧
    (i ≠ .fdec → i ≠ .clr → t.fcnt = s.fcnt) ∧
    ((∀ b, i ≠ .rxb b) → i ≠ .rxeof → i ≠ .clr → t.rxState = s.rxState ∧ t.rxx = s.rxx ∧ t.rxec = s.rxec) ∧
    ((∀ b, i ≠ .rxb b) → i ≠ .clr → t.rxcnt = s.rxcnt ∧ t.rxsum = s.rxsum) ∧
    (t.rxcnt ≠ s.rxcnt → (i = .clr ∧ t.rxcnt = 0x0000#16) ∨ ((∃ b, i = .rxb b) ∧ t.rxcnt = s.rxcnt + 1#16)) ∧
    ∀ j, j < 260 → t.rxbuf j ≠ s.rxbuf j → i = .rxb (t.rxbuf j) ∧ s.rxcnt.toNat = j

/-- R25: IDLE, RD and WR leave STATUS; every other transaction writes it (the code of the step that ran last). -/
def Obligations.StatusKeepsUnlessCommand : Prop :=
  ∀ (i : Instr) (s t : State), i.wellFormed = true → exec i s = .next t →
    ((∃ g, i = .idle g) ∨ (∃ a, i = .rd a) ∨ (∃ a d, i = .wr a d) → t.status = s.status) ∧
    ((∃ c, i = .illcmd c) ∨ i = .clr ∨ i = .rxeof ∨ i = .enc ∨ i = .fx ∨ i = .fdec ∨ (∃ b, i = .rxb b) →
      ∀ (e : StatusCode), ∃ u, exec i { s with status := e } = .next u ∧ u.status = t.status)

/-- U5, R84: in a state that meets the invariant, receiving and field decoding do not depend on any byte that nothing
has written: with other free values they do the same. -/
def Obligations.UnwrittenBytesDoNotMatter : Prop :=
  ∀ (i : Instr) (s t : State) (e : Nat), Inv s →
    i = .fx ∨ i = .fdec ∨ i = .rxeof ∨ i = .clr ∨ (∃ b, i = .rxb b) → exec i s = .next t →
      exec i { s with epoch := e } = .next { t with epoch := e }
end

