-- ==== Sys2Proof/Laws/State.lean ====
section
/-! SUPPORT. What each named update of the state does to each field: one lemma per field per update. -/

namespace Sys2Proof.Machine

variable (s : State)

/-! `raise E` writes STATUS.CODE and nothing else (spec/60_exceptions.md R226). -/

@[simp] theorem State.raise_arg (e : StatusCode) : (s.raise e).arg = s.arg := rfl
@[simp] theorem State.raise_status (e : StatusCode) : (s.raise e).status = e := rfl
@[simp] theorem State.raise_rxState (e : StatusCode) : (s.raise e).rxState = s.rxState := rfl
@[simp] theorem State.raise_rxx (e : StatusCode) : (s.raise e).rxx = s.rxx := rfl
@[simp] theorem State.raise_rxec (e : StatusCode) : (s.raise e).rxec = s.rxec := rfl
@[simp] theorem State.raise_rxcnt (e : StatusCode) : (s.raise e).rxcnt = s.rxcnt := rfl
@[simp] theorem State.raise_rxsum (e : StatusCode) : (s.raise e).rxsum = s.rxsum := rfl
@[simp] theorem State.raise_eOpcode (e : StatusCode) : (s.raise e).eOpcode = s.eOpcode := rfl
@[simp] theorem State.raise_eLen (e : StatusCode) : (s.raise e).eLen = s.eLen := rfl
@[simp] theorem State.raise_txlen (e : StatusCode) : (s.raise e).txlen = s.txlen := rfl
@[simp] theorem State.raise_xOff (e : StatusCode) : (s.raise e).xOff = s.xOff := rfl
@[simp] theorem State.raise_xWid (e : StatusCode) : (s.raise e).xWid = s.xWid := rfl
@[simp] theorem State.raise_xSgn (e : StatusCode) : (s.raise e).xSgn = s.xSgn := rfl
@[simp] theorem State.raise_xShift (e : StatusCode) : (s.raise e).xShift = s.xShift := rfl
@[simp] theorem State.raise_xMant (e : StatusCode) : (s.raise e).xMant = s.xMant := rfl
@[simp] theorem State.raise_xRaw (e : StatusCode) : (s.raise e).xRaw = s.xRaw := rfl
@[simp] theorem State.raise_xRsh (e : StatusCode) : (s.raise e).xRsh = s.xRsh := rfl
@[simp] theorem State.raise_xScaled (e : StatusCode) : (s.raise e).xScaled = s.xScaled := rfl
@[simp] theorem State.raise_fcnt (e : StatusCode) : (s.raise e).fcnt = s.fcnt := rfl
@[simp] theorem State.raise_mem (e : StatusCode) : (s.raise e).mem = s.mem := rfl
@[simp] theorem State.raise_respMarker (e : StatusCode) : (s.raise e).respMarker = s.respMarker := rfl
@[simp] theorem State.raise_catalog (e : StatusCode) : (s.raise e).catalog = s.catalog := rfl
@[simp] theorem State.raise_pending (e : StatusCode) : (s.raise e).pending = s.pending := rfl
@[simp] theorem State.raise_reads (e : StatusCode) : (s.raise e).reads = s.reads := rfl
@[simp] theorem State.raise_epoch (e : StatusCode) : (s.raise e).epoch = s.epoch := rfl

/-! A receiver failure writes RXST.STATE, RXEC and STATUS.CODE (spec/43_receiver.md R152). -/

@[simp] theorem State.rxFail_arg (e : StatusCode) : (s.rxFail e).arg = s.arg := rfl
@[simp] theorem State.rxFail_status (e : StatusCode) : (s.rxFail e).status = e := rfl
@[simp] theorem State.rxFail_rxState (e : StatusCode) : (s.rxFail e).rxState = RxState.err := rfl
@[simp] theorem State.rxFail_rxx (e : StatusCode) : (s.rxFail e).rxx = s.rxx := rfl
@[simp] theorem State.rxFail_rxec (e : StatusCode) : (s.rxFail e).rxec = e := rfl
@[simp] theorem State.rxFail_rxcnt (e : StatusCode) : (s.rxFail e).rxcnt = s.rxcnt := rfl
@[simp] theorem State.rxFail_rxsum (e : StatusCode) : (s.rxFail e).rxsum = s.rxsum := rfl
@[simp] theorem State.rxFail_eOpcode (e : StatusCode) : (s.rxFail e).eOpcode = s.eOpcode := rfl
@[simp] theorem State.rxFail_eLen (e : StatusCode) : (s.rxFail e).eLen = s.eLen := rfl
@[simp] theorem State.rxFail_txlen (e : StatusCode) : (s.rxFail e).txlen = s.txlen := rfl
@[simp] theorem State.rxFail_xOff (e : StatusCode) : (s.rxFail e).xOff = s.xOff := rfl
@[simp] theorem State.rxFail_xWid (e : StatusCode) : (s.rxFail e).xWid = s.xWid := rfl
@[simp] theorem State.rxFail_xSgn (e : StatusCode) : (s.rxFail e).xSgn = s.xSgn := rfl
@[simp] theorem State.rxFail_xShift (e : StatusCode) : (s.rxFail e).xShift = s.xShift := rfl
@[simp] theorem State.rxFail_xMant (e : StatusCode) : (s.rxFail e).xMant = s.xMant := rfl
@[simp] theorem State.rxFail_xRaw (e : StatusCode) : (s.rxFail e).xRaw = s.xRaw := rfl
@[simp] theorem State.rxFail_xRsh (e : StatusCode) : (s.rxFail e).xRsh = s.xRsh := rfl
@[simp] theorem State.rxFail_xScaled (e : StatusCode) : (s.rxFail e).xScaled = s.xScaled := rfl
@[simp] theorem State.rxFail_fcnt (e : StatusCode) : (s.rxFail e).fcnt = s.fcnt := rfl
@[simp] theorem State.rxFail_mem (e : StatusCode) : (s.rxFail e).mem = s.mem := rfl
@[simp] theorem State.rxFail_respMarker (e : StatusCode) : (s.rxFail e).respMarker = s.respMarker := rfl
@[simp] theorem State.rxFail_catalog (e : StatusCode) : (s.rxFail e).catalog = s.catalog := rfl
@[simp] theorem State.rxFail_pending (e : StatusCode) : (s.rxFail e).pending = s.pending := rfl
@[simp] theorem State.rxFail_reads (e : StatusCode) : (s.rxFail e).reads = s.reads := rfl
@[simp] theorem State.rxFail_epoch (e : StatusCode) : (s.rxFail e).epoch = s.epoch := rfl

/-! CLR's writes (spec/40_host_access.md R124). -/

@[simp] theorem State.clear_arg : s.clear.arg = s.arg := rfl
@[simp] theorem State.clear_status : s.clear.status = StatusCode.ok := rfl
@[simp] theorem State.clear_rxState : s.clear.rxState = RxState.idle := rfl
@[simp] theorem State.clear_rxx : s.clear.rxx = false := rfl
@[simp] theorem State.clear_rxec : s.clear.rxec = StatusCode.ok := rfl
@[simp] theorem State.clear_rxcnt : s.clear.rxcnt = 0x0000#16 := rfl
@[simp] theorem State.clear_rxsum : s.clear.rxsum = 0x00#8 := rfl
@[simp] theorem State.clear_eOpcode : s.clear.eOpcode = s.eOpcode := rfl
@[simp] theorem State.clear_eLen : s.clear.eLen = s.eLen := rfl
@[simp] theorem State.clear_txlen : s.clear.txlen = s.txlen := rfl
@[simp] theorem State.clear_xOff : s.clear.xOff = s.xOff := rfl
@[simp] theorem State.clear_xWid : s.clear.xWid = s.xWid := rfl
@[simp] theorem State.clear_xSgn : s.clear.xSgn = s.xSgn := rfl
@[simp] theorem State.clear_xShift : s.clear.xShift = s.xShift := rfl
@[simp] theorem State.clear_xMant : s.clear.xMant = s.xMant := rfl
@[simp] theorem State.clear_xRaw : s.clear.xRaw = s.xRaw := rfl
@[simp] theorem State.clear_xRsh : s.clear.xRsh = s.xRsh := rfl
@[simp] theorem State.clear_xScaled : s.clear.xScaled = s.xScaled := rfl
@[simp] theorem State.clear_fcnt : s.clear.fcnt = 0x00#8 := rfl
@[simp] theorem State.clear_mem : s.clear.mem = s.mem := rfl
@[simp] theorem State.clear_respMarker : s.clear.respMarker = s.respMarker := rfl
@[simp] theorem State.clear_catalog : s.clear.catalog = s.catalog := rfl
@[simp] theorem State.clear_pending : s.clear.pending = s.pending := rfl
@[simp] theorem State.clear_reads : s.clear.reads = s.reads := rfl
@[simp] theorem State.clear_epoch : s.clear.epoch = s.epoch := rfl

/-! A byte given to the host. -/

@[simp] theorem State.giveRead_arg (b : Byte) : (s.giveRead b).arg = s.arg := rfl
@[simp] theorem State.giveRead_status (b : Byte) : (s.giveRead b).status = s.status := rfl
@[simp] theorem State.giveRead_rxState (b : Byte) : (s.giveRead b).rxState = s.rxState := rfl
@[simp] theorem State.giveRead_rxx (b : Byte) : (s.giveRead b).rxx = s.rxx := rfl
@[simp] theorem State.giveRead_rxec (b : Byte) : (s.giveRead b).rxec = s.rxec := rfl
@[simp] theorem State.giveRead_rxcnt (b : Byte) : (s.giveRead b).rxcnt = s.rxcnt := rfl
@[simp] theorem State.giveRead_rxsum (b : Byte) : (s.giveRead b).rxsum = s.rxsum := rfl
@[simp] theorem State.giveRead_eOpcode (b : Byte) : (s.giveRead b).eOpcode = s.eOpcode := rfl
@[simp] theorem State.giveRead_eLen (b : Byte) : (s.giveRead b).eLen = s.eLen := rfl
@[simp] theorem State.giveRead_txlen (b : Byte) : (s.giveRead b).txlen = s.txlen := rfl
@[simp] theorem State.giveRead_xOff (b : Byte) : (s.giveRead b).xOff = s.xOff := rfl
@[simp] theorem State.giveRead_xWid (b : Byte) : (s.giveRead b).xWid = s.xWid := rfl
@[simp] theorem State.giveRead_xSgn (b : Byte) : (s.giveRead b).xSgn = s.xSgn := rfl
@[simp] theorem State.giveRead_xShift (b : Byte) : (s.giveRead b).xShift = s.xShift := rfl
@[simp] theorem State.giveRead_xMant (b : Byte) : (s.giveRead b).xMant = s.xMant := rfl
@[simp] theorem State.giveRead_xRaw (b : Byte) : (s.giveRead b).xRaw = s.xRaw := rfl
@[simp] theorem State.giveRead_xRsh (b : Byte) : (s.giveRead b).xRsh = s.xRsh := rfl
@[simp] theorem State.giveRead_xScaled (b : Byte) : (s.giveRead b).xScaled = s.xScaled := rfl
@[simp] theorem State.giveRead_fcnt (b : Byte) : (s.giveRead b).fcnt = s.fcnt := rfl
@[simp] theorem State.giveRead_mem (b : Byte) : (s.giveRead b).mem = s.mem := rfl
@[simp] theorem State.giveRead_respMarker (b : Byte) : (s.giveRead b).respMarker = s.respMarker := rfl
@[simp] theorem State.giveRead_catalog (b : Byte) : (s.giveRead b).catalog = s.catalog := rfl
@[simp] theorem State.giveRead_pending (b : Byte) : (s.giveRead b).pending = s.pending := rfl
@[simp] theorem State.giveRead_reads (b : Byte) : (s.giveRead b).reads = s.reads ++ [b] := rfl
@[simp] theorem State.giveRead_epoch (b : Byte) : (s.giveRead b).epoch = s.epoch := rfl

/-! The host's side of the bus. -/

@[simp] theorem State.withPending_arg (p : List HostEvent) : (s.withPending p).arg = s.arg := rfl
@[simp] theorem State.withPending_status (p : List HostEvent) : (s.withPending p).status = s.status := rfl
@[simp] theorem State.withPending_rxState (p : List HostEvent) : (s.withPending p).rxState = s.rxState := rfl
@[simp] theorem State.withPending_rxx (p : List HostEvent) : (s.withPending p).rxx = s.rxx := rfl
@[simp] theorem State.withPending_rxec (p : List HostEvent) : (s.withPending p).rxec = s.rxec := rfl
@[simp] theorem State.withPending_rxcnt (p : List HostEvent) : (s.withPending p).rxcnt = s.rxcnt := rfl
@[simp] theorem State.withPending_rxsum (p : List HostEvent) : (s.withPending p).rxsum = s.rxsum := rfl
@[simp] theorem State.withPending_eOpcode (p : List HostEvent) : (s.withPending p).eOpcode = s.eOpcode := rfl
@[simp] theorem State.withPending_eLen (p : List HostEvent) : (s.withPending p).eLen = s.eLen := rfl
@[simp] theorem State.withPending_txlen (p : List HostEvent) : (s.withPending p).txlen = s.txlen := rfl
@[simp] theorem State.withPending_xOff (p : List HostEvent) : (s.withPending p).xOff = s.xOff := rfl
@[simp] theorem State.withPending_xWid (p : List HostEvent) : (s.withPending p).xWid = s.xWid := rfl
@[simp] theorem State.withPending_xSgn (p : List HostEvent) : (s.withPending p).xSgn = s.xSgn := rfl
@[simp] theorem State.withPending_xShift (p : List HostEvent) : (s.withPending p).xShift = s.xShift := rfl
@[simp] theorem State.withPending_xMant (p : List HostEvent) : (s.withPending p).xMant = s.xMant := rfl
@[simp] theorem State.withPending_xRaw (p : List HostEvent) : (s.withPending p).xRaw = s.xRaw := rfl
@[simp] theorem State.withPending_xRsh (p : List HostEvent) : (s.withPending p).xRsh = s.xRsh := rfl
@[simp] theorem State.withPending_xScaled (p : List HostEvent) : (s.withPending p).xScaled = s.xScaled := rfl
@[simp] theorem State.withPending_fcnt (p : List HostEvent) : (s.withPending p).fcnt = s.fcnt := rfl
@[simp] theorem State.withPending_mem (p : List HostEvent) : (s.withPending p).mem = s.mem := rfl
@[simp] theorem State.withPending_respMarker (p : List HostEvent) : (s.withPending p).respMarker = s.respMarker := rfl
@[simp] theorem State.withPending_catalog (p : List HostEvent) : (s.withPending p).catalog = s.catalog := rfl
@[simp] theorem State.withPending_pending (p : List HostEvent) : (s.withPending p).pending = p := rfl
@[simp] theorem State.withPending_reads (p : List HostEvent) : (s.withPending p).reads = s.reads := rfl
@[simp] theorem State.withPending_epoch (p : List HostEvent) : (s.withPending p).epoch = s.epoch := rfl

/-! One buffer byte written. -/

@[simp] theorem State.setBufByte_arg (a : Nat) (b : Byte) : (s.setBufByte a b).arg = s.arg := rfl
@[simp] theorem State.setBufByte_status (a : Nat) (b : Byte) : (s.setBufByte a b).status = s.status := rfl
@[simp] theorem State.setBufByte_rxState (a : Nat) (b : Byte) : (s.setBufByte a b).rxState = s.rxState := rfl
@[simp] theorem State.setBufByte_rxx (a : Nat) (b : Byte) : (s.setBufByte a b).rxx = s.rxx := rfl
@[simp] theorem State.setBufByte_rxec (a : Nat) (b : Byte) : (s.setBufByte a b).rxec = s.rxec := rfl
@[simp] theorem State.setBufByte_rxcnt (a : Nat) (b : Byte) : (s.setBufByte a b).rxcnt = s.rxcnt := rfl
@[simp] theorem State.setBufByte_rxsum (a : Nat) (b : Byte) : (s.setBufByte a b).rxsum = s.rxsum := rfl
@[simp] theorem State.setBufByte_eOpcode (a : Nat) (b : Byte) : (s.setBufByte a b).eOpcode = s.eOpcode := rfl
@[simp] theorem State.setBufByte_eLen (a : Nat) (b : Byte) : (s.setBufByte a b).eLen = s.eLen := rfl
@[simp] theorem State.setBufByte_txlen (a : Nat) (b : Byte) : (s.setBufByte a b).txlen = s.txlen := rfl
@[simp] theorem State.setBufByte_xOff (a : Nat) (b : Byte) : (s.setBufByte a b).xOff = s.xOff := rfl
@[simp] theorem State.setBufByte_xWid (a : Nat) (b : Byte) : (s.setBufByte a b).xWid = s.xWid := rfl
@[simp] theorem State.setBufByte_xSgn (a : Nat) (b : Byte) : (s.setBufByte a b).xSgn = s.xSgn := rfl
@[simp] theorem State.setBufByte_xShift (a : Nat) (b : Byte) : (s.setBufByte a b).xShift = s.xShift := rfl
@[simp] theorem State.setBufByte_xMant (a : Nat) (b : Byte) : (s.setBufByte a b).xMant = s.xMant := rfl
@[simp] theorem State.setBufByte_xRaw (a : Nat) (b : Byte) : (s.setBufByte a b).xRaw = s.xRaw := rfl
@[simp] theorem State.setBufByte_xRsh (a : Nat) (b : Byte) : (s.setBufByte a b).xRsh = s.xRsh := rfl
@[simp] theorem State.setBufByte_xScaled (a : Nat) (b : Byte) : (s.setBufByte a b).xScaled = s.xScaled := rfl
@[simp] theorem State.setBufByte_fcnt (a : Nat) (b : Byte) : (s.setBufByte a b).fcnt = s.fcnt := rfl
@[simp] theorem State.setBufByte_mem (a : Nat) (b : Byte) : (s.setBufByte a b).mem = Memory.set s.mem a b := rfl
@[simp] theorem State.setBufByte_respMarker (a : Nat) (b : Byte) : (s.setBufByte a b).respMarker = s.respMarker := rfl
@[simp] theorem State.setBufByte_catalog (a : Nat) (b : Byte) : (s.setBufByte a b).catalog = s.catalog := rfl
@[simp] theorem State.setBufByte_pending (a : Nat) (b : Byte) : (s.setBufByte a b).pending = s.pending := rfl
@[simp] theorem State.setBufByte_reads (a : Nat) (b : Byte) : (s.setBufByte a b).reads = s.reads := rfl
@[simp] theorem State.setBufByte_epoch (a : Nat) (b : Byte) : (s.setBufByte a b).epoch = s.epoch := rfl

/-! Consecutive buffer bytes written. -/

@[simp] theorem State.setBufBytes_arg (a : Nat) (bs : List Byte) : (s.setBufBytes a bs).arg = s.arg := rfl
@[simp] theorem State.setBufBytes_status (a : Nat) (bs : List Byte) : (s.setBufBytes a bs).status = s.status := rfl
@[simp] theorem State.setBufBytes_rxState (a : Nat) (bs : List Byte) : (s.setBufBytes a bs).rxState = s.rxState := rfl
@[simp] theorem State.setBufBytes_rxx (a : Nat) (bs : List Byte) : (s.setBufBytes a bs).rxx = s.rxx := rfl
@[simp] theorem State.setBufBytes_rxec (a : Nat) (bs : List Byte) : (s.setBufBytes a bs).rxec = s.rxec := rfl
@[simp] theorem State.setBufBytes_rxcnt (a : Nat) (bs : List Byte) : (s.setBufBytes a bs).rxcnt = s.rxcnt := rfl
@[simp] theorem State.setBufBytes_rxsum (a : Nat) (bs : List Byte) : (s.setBufBytes a bs).rxsum = s.rxsum := rfl
@[simp] theorem State.setBufBytes_eOpcode (a : Nat) (bs : List Byte) : (s.setBufBytes a bs).eOpcode = s.eOpcode := rfl
@[simp] theorem State.setBufBytes_eLen (a : Nat) (bs : List Byte) : (s.setBufBytes a bs).eLen = s.eLen := rfl
@[simp] theorem State.setBufBytes_txlen (a : Nat) (bs : List Byte) : (s.setBufBytes a bs).txlen = s.txlen := rfl
@[simp] theorem State.setBufBytes_xOff (a : Nat) (bs : List Byte) : (s.setBufBytes a bs).xOff = s.xOff := rfl
@[simp] theorem State.setBufBytes_xWid (a : Nat) (bs : List Byte) : (s.setBufBytes a bs).xWid = s.xWid := rfl
@[simp] theorem State.setBufBytes_xSgn (a : Nat) (bs : List Byte) : (s.setBufBytes a bs).xSgn = s.xSgn := rfl
@[simp] theorem State.setBufBytes_xShift (a : Nat) (bs : List Byte) : (s.setBufBytes a bs).xShift = s.xShift := rfl
@[simp] theorem State.setBufBytes_xMant (a : Nat) (bs : List Byte) : (s.setBufBytes a bs).xMant = s.xMant := rfl
@[simp] theorem State.setBufBytes_xRaw (a : Nat) (bs : List Byte) : (s.setBufBytes a bs).xRaw = s.xRaw := rfl
@[simp] theorem State.setBufBytes_xRsh (a : Nat) (bs : List Byte) : (s.setBufBytes a bs).xRsh = s.xRsh := rfl
@[simp] theorem State.setBufBytes_xScaled (a : Nat) (bs : List Byte) : (s.setBufBytes a bs).xScaled = s.xScaled := rfl
@[simp] theorem State.setBufBytes_fcnt (a : Nat) (bs : List Byte) : (s.setBufBytes a bs).fcnt = s.fcnt := rfl
@[simp] theorem State.setBufBytes_mem (a : Nat) (bs : List Byte) : (s.setBufBytes a bs).mem = Memory.setRange s.mem a bs := rfl
@[simp] theorem State.setBufBytes_respMarker (a : Nat) (bs : List Byte) : (s.setBufBytes a bs).respMarker = s.respMarker := rfl
@[simp] theorem State.setBufBytes_catalog (a : Nat) (bs : List Byte) : (s.setBufBytes a bs).catalog = s.catalog := rfl
@[simp] theorem State.setBufBytes_pending (a : Nat) (bs : List Byte) : (s.setBufBytes a bs).pending = s.pending := rfl
@[simp] theorem State.setBufBytes_reads (a : Nat) (bs : List Byte) : (s.setBufBytes a bs).reads = s.reads := rfl
@[simp] theorem State.setBufBytes_epoch (a : Nat) (bs : List Byte) : (s.setBufBytes a bs).epoch = s.epoch := rfl

/-! Reset (spec/70_reset_and_hazards.md R250). -/

@[simp] theorem State.applyReset_arg : s.applyReset.arg = 0x00#8 := rfl
@[simp] theorem State.applyReset_status : s.applyReset.status = StatusCode.ok := rfl
@[simp] theorem State.applyReset_rxState : s.applyReset.rxState = RxState.idle := rfl
@[simp] theorem State.applyReset_rxx : s.applyReset.rxx = false := rfl
@[simp] theorem State.applyReset_rxec : s.applyReset.rxec = StatusCode.ok := rfl
@[simp] theorem State.applyReset_rxcnt : s.applyReset.rxcnt = 0x0000#16 := rfl
@[simp] theorem State.applyReset_rxsum : s.applyReset.rxsum = 0x00#8 := rfl
@[simp] theorem State.applyReset_eOpcode : s.applyReset.eOpcode = 0x00#8 := rfl
@[simp] theorem State.applyReset_eLen : s.applyReset.eLen = 0x0000#16 := rfl
@[simp] theorem State.applyReset_txlen : s.applyReset.txlen = 0x0000#16 := rfl
@[simp] theorem State.applyReset_xOff : s.applyReset.xOff = 0x00#8 := rfl
@[simp] theorem State.applyReset_xWid : s.applyReset.xWid = 0x01#8 := rfl
@[simp] theorem State.applyReset_xSgn : s.applyReset.xSgn = false := rfl
@[simp] theorem State.applyReset_xShift : s.applyReset.xShift = 0#6 := rfl
@[simp] theorem State.applyReset_xMant : s.applyReset.xMant = 0x00000001#32 := rfl
@[simp] theorem State.applyReset_xRaw : s.applyReset.xRaw = 0x00000000#32 := rfl
@[simp] theorem State.applyReset_xRsh : s.applyReset.xRsh = 0#6 := rfl
@[simp] theorem State.applyReset_xScaled : s.applyReset.xScaled = 0x0000000000000000#64 := rfl
@[simp] theorem State.applyReset_fcnt : s.applyReset.fcnt = 0x00#8 := rfl
@[simp] theorem State.applyReset_mem : s.applyReset.mem = [] := rfl
@[simp] theorem State.applyReset_respMarker : s.applyReset.respMarker = s.respMarker := rfl
@[simp] theorem State.applyReset_catalog : s.applyReset.catalog = s.catalog := rfl
@[simp] theorem State.applyReset_pending : s.applyReset.pending = s.pending := rfl
@[simp] theorem State.applyReset_reads : s.applyReset.reads = s.reads := rfl
@[simp] theorem State.applyReset_epoch : s.applyReset.epoch = s.epoch + 1 := rfl

/-! The failing ENC (spec/42_encoder.md R140). -/

@[simp] theorem State.encodeTooLarge_arg : s.encodeTooLarge.arg = s.arg := rfl
@[simp] theorem State.encodeTooLarge_status : s.encodeTooLarge.status = StatusCode.bodyTooLarge := rfl
@[simp] theorem State.encodeTooLarge_rxState : s.encodeTooLarge.rxState = s.rxState := rfl
@[simp] theorem State.encodeTooLarge_rxx : s.encodeTooLarge.rxx = s.rxx := rfl
@[simp] theorem State.encodeTooLarge_rxec : s.encodeTooLarge.rxec = s.rxec := rfl
@[simp] theorem State.encodeTooLarge_rxcnt : s.encodeTooLarge.rxcnt = s.rxcnt := rfl
@[simp] theorem State.encodeTooLarge_rxsum : s.encodeTooLarge.rxsum = s.rxsum := rfl
@[simp] theorem State.encodeTooLarge_eOpcode : s.encodeTooLarge.eOpcode = s.eOpcode := rfl
@[simp] theorem State.encodeTooLarge_eLen : s.encodeTooLarge.eLen = s.eLen := rfl
@[simp] theorem State.encodeTooLarge_txlen : s.encodeTooLarge.txlen = 0x0000#16 := rfl
@[simp] theorem State.encodeTooLarge_xOff : s.encodeTooLarge.xOff = s.xOff := rfl
@[simp] theorem State.encodeTooLarge_xWid : s.encodeTooLarge.xWid = s.xWid := rfl
@[simp] theorem State.encodeTooLarge_xSgn : s.encodeTooLarge.xSgn = s.xSgn := rfl
@[simp] theorem State.encodeTooLarge_xShift : s.encodeTooLarge.xShift = s.xShift := rfl
@[simp] theorem State.encodeTooLarge_xMant : s.encodeTooLarge.xMant = s.xMant := rfl
@[simp] theorem State.encodeTooLarge_xRaw : s.encodeTooLarge.xRaw = s.xRaw := rfl
@[simp] theorem State.encodeTooLarge_xRsh : s.encodeTooLarge.xRsh = s.xRsh := rfl
@[simp] theorem State.encodeTooLarge_xScaled : s.encodeTooLarge.xScaled = s.xScaled := rfl
@[simp] theorem State.encodeTooLarge_fcnt : s.encodeTooLarge.fcnt = s.fcnt := rfl
@[simp] theorem State.encodeTooLarge_mem : s.encodeTooLarge.mem = s.mem := rfl
@[simp] theorem State.encodeTooLarge_respMarker : s.encodeTooLarge.respMarker = s.respMarker := rfl
@[simp] theorem State.encodeTooLarge_catalog : s.encodeTooLarge.catalog = s.catalog := rfl
@[simp] theorem State.encodeTooLarge_pending : s.encodeTooLarge.pending = s.pending := rfl
@[simp] theorem State.encodeTooLarge_reads : s.encodeTooLarge.reads = s.reads := rfl
@[simp] theorem State.encodeTooLarge_epoch : s.encodeTooLarge.epoch = s.epoch := rfl

/-! The succeeding ENC (R140). -/

@[simp] theorem State.encodeRequest_arg (n : Nat) : (s.encodeRequest n).arg = s.arg := rfl
@[simp] theorem State.encodeRequest_status (n : Nat) : (s.encodeRequest n).status = StatusCode.ok := rfl
@[simp] theorem State.encodeRequest_rxState (n : Nat) : (s.encodeRequest n).rxState = s.rxState := rfl
@[simp] theorem State.encodeRequest_rxx (n : Nat) : (s.encodeRequest n).rxx = s.rxx := rfl
@[simp] theorem State.encodeRequest_rxec (n : Nat) : (s.encodeRequest n).rxec = s.rxec := rfl
@[simp] theorem State.encodeRequest_rxcnt (n : Nat) : (s.encodeRequest n).rxcnt = s.rxcnt := rfl
@[simp] theorem State.encodeRequest_rxsum (n : Nat) : (s.encodeRequest n).rxsum = s.rxsum := rfl
@[simp] theorem State.encodeRequest_eOpcode (n : Nat) : (s.encodeRequest n).eOpcode = s.eOpcode := rfl
@[simp] theorem State.encodeRequest_eLen (n : Nat) : (s.encodeRequest n).eLen = s.eLen := rfl
@[simp] theorem State.encodeRequest_txlen (n : Nat) : (s.encodeRequest n).txlen = BitVec.ofNat 16 (n + 5) := rfl
@[simp] theorem State.encodeRequest_xOff (n : Nat) : (s.encodeRequest n).xOff = s.xOff := rfl
@[simp] theorem State.encodeRequest_xWid (n : Nat) : (s.encodeRequest n).xWid = s.xWid := rfl
@[simp] theorem State.encodeRequest_xSgn (n : Nat) : (s.encodeRequest n).xSgn = s.xSgn := rfl
@[simp] theorem State.encodeRequest_xShift (n : Nat) : (s.encodeRequest n).xShift = s.xShift := rfl
@[simp] theorem State.encodeRequest_xMant (n : Nat) : (s.encodeRequest n).xMant = s.xMant := rfl
@[simp] theorem State.encodeRequest_xRaw (n : Nat) : (s.encodeRequest n).xRaw = s.xRaw := rfl
@[simp] theorem State.encodeRequest_xRsh (n : Nat) : (s.encodeRequest n).xRsh = s.xRsh := rfl
@[simp] theorem State.encodeRequest_xScaled (n : Nat) : (s.encodeRequest n).xScaled = s.xScaled := rfl
@[simp] theorem State.encodeRequest_fcnt (n : Nat) : (s.encodeRequest n).fcnt = s.fcnt := rfl
@[simp] theorem State.encodeRequest_mem (n : Nat) : (s.encodeRequest n).mem = Memory.setRange s.mem (txbufAddr 0) (encodeFrame s.eOpcode (s.requestBody n)) := rfl
@[simp] theorem State.encodeRequest_respMarker (n : Nat) : (s.encodeRequest n).respMarker = s.respMarker := rfl
@[simp] theorem State.encodeRequest_catalog (n : Nat) : (s.encodeRequest n).catalog = s.catalog := rfl
@[simp] theorem State.encodeRequest_pending (n : Nat) : (s.encodeRequest n).pending = s.pending := rfl
@[simp] theorem State.encodeRequest_reads (n : Nat) : (s.encodeRequest n).reads = s.reads := rfl
@[simp] theorem State.encodeRequest_epoch (n : Nat) : (s.encodeRequest n).epoch = s.epoch := rfl

/-! A received byte stored and counted (spec/43_receiver.md R152). -/

@[simp] theorem State.storeReceived_arg (b : Byte) : (s.storeReceived b).arg = s.arg := rfl
@[simp] theorem State.storeReceived_status (b : Byte) : (s.storeReceived b).status = s.status := rfl
@[simp] theorem State.storeReceived_rxState (b : Byte) : (s.storeReceived b).rxState = s.rxState := rfl
@[simp] theorem State.storeReceived_rxx (b : Byte) : (s.storeReceived b).rxx = s.rxx := rfl
@[simp] theorem State.storeReceived_rxec (b : Byte) : (s.storeReceived b).rxec = s.rxec := rfl
@[simp] theorem State.storeReceived_rxcnt (b : Byte) : (s.storeReceived b).rxcnt = s.rxcnt + 1#16 := rfl
@[simp] theorem State.storeReceived_rxsum (b : Byte) : (s.storeReceived b).rxsum = s.rxsum := rfl
@[simp] theorem State.storeReceived_eOpcode (b : Byte) : (s.storeReceived b).eOpcode = s.eOpcode := rfl
@[simp] theorem State.storeReceived_eLen (b : Byte) : (s.storeReceived b).eLen = s.eLen := rfl
@[simp] theorem State.storeReceived_txlen (b : Byte) : (s.storeReceived b).txlen = s.txlen := rfl
@[simp] theorem State.storeReceived_xOff (b : Byte) : (s.storeReceived b).xOff = s.xOff := rfl
@[simp] theorem State.storeReceived_xWid (b : Byte) : (s.storeReceived b).xWid = s.xWid := rfl
@[simp] theorem State.storeReceived_xSgn (b : Byte) : (s.storeReceived b).xSgn = s.xSgn := rfl
@[simp] theorem State.storeReceived_xShift (b : Byte) : (s.storeReceived b).xShift = s.xShift := rfl
@[simp] theorem State.storeReceived_xMant (b : Byte) : (s.storeReceived b).xMant = s.xMant := rfl
@[simp] theorem State.storeReceived_xRaw (b : Byte) : (s.storeReceived b).xRaw = s.xRaw := rfl
@[simp] theorem State.storeReceived_xRsh (b : Byte) : (s.storeReceived b).xRsh = s.xRsh := rfl
@[simp] theorem State.storeReceived_xScaled (b : Byte) : (s.storeReceived b).xScaled = s.xScaled := rfl
@[simp] theorem State.storeReceived_fcnt (b : Byte) : (s.storeReceived b).fcnt = s.fcnt := rfl
@[simp] theorem State.storeReceived_mem (b : Byte) : (s.storeReceived b).mem = Memory.set s.mem (rxbufAddr s.rxcnt.toNat) b := rfl
@[simp] theorem State.storeReceived_respMarker (b : Byte) : (s.storeReceived b).respMarker = s.respMarker := rfl
@[simp] theorem State.storeReceived_catalog (b : Byte) : (s.storeReceived b).catalog = s.catalog := rfl
@[simp] theorem State.storeReceived_pending (b : Byte) : (s.storeReceived b).pending = s.pending := rfl
@[simp] theorem State.storeReceived_reads (b : Byte) : (s.storeReceived b).reads = s.reads := rfl
@[simp] theorem State.storeReceived_epoch (b : Byte) : (s.storeReceived b).epoch = s.epoch := rfl

/-! A received byte dropped (R158). -/

@[simp] theorem State.dropReceived_arg : s.dropReceived.arg = s.arg := rfl
@[simp] theorem State.dropReceived_status : s.dropReceived.status = StatusCode.rxClosed := rfl
@[simp] theorem State.dropReceived_rxState : s.dropReceived.rxState = s.rxState := rfl
@[simp] theorem State.dropReceived_rxx : s.dropReceived.rxx = true := rfl
@[simp] theorem State.dropReceived_rxec : s.dropReceived.rxec = s.rxec := rfl
@[simp] theorem State.dropReceived_rxcnt : s.dropReceived.rxcnt = s.rxcnt := rfl
@[simp] theorem State.dropReceived_rxsum : s.dropReceived.rxsum = s.rxsum := rfl
@[simp] theorem State.dropReceived_eOpcode : s.dropReceived.eOpcode = s.eOpcode := rfl
@[simp] theorem State.dropReceived_eLen : s.dropReceived.eLen = s.eLen := rfl
@[simp] theorem State.dropReceived_txlen : s.dropReceived.txlen = s.txlen := rfl
@[simp] theorem State.dropReceived_xOff : s.dropReceived.xOff = s.xOff := rfl
@[simp] theorem State.dropReceived_xWid : s.dropReceived.xWid = s.xWid := rfl
@[simp] theorem State.dropReceived_xSgn : s.dropReceived.xSgn = s.xSgn := rfl
@[simp] theorem State.dropReceived_xShift : s.dropReceived.xShift = s.xShift := rfl
@[simp] theorem State.dropReceived_xMant : s.dropReceived.xMant = s.xMant := rfl
@[simp] theorem State.dropReceived_xRaw : s.dropReceived.xRaw = s.xRaw := rfl
@[simp] theorem State.dropReceived_xRsh : s.dropReceived.xRsh = s.xRsh := rfl
@[simp] theorem State.dropReceived_xScaled : s.dropReceived.xScaled = s.xScaled := rfl
@[simp] theorem State.dropReceived_fcnt : s.dropReceived.fcnt = s.fcnt := rfl
@[simp] theorem State.dropReceived_mem : s.dropReceived.mem = s.mem := rfl
@[simp] theorem State.dropReceived_respMarker : s.dropReceived.respMarker = s.respMarker := rfl
@[simp] theorem State.dropReceived_catalog : s.dropReceived.catalog = s.catalog := rfl
@[simp] theorem State.dropReceived_pending : s.dropReceived.pending = s.pending := rfl
@[simp] theorem State.dropReceived_reads : s.dropReceived.reads = s.reads := rfl
@[simp] theorem State.dropReceived_epoch : s.dropReceived.epoch = s.epoch := rfl

/-! The succeeding FX (spec/44_fields.md R187). -/

@[simp] theorem State.extractField_arg : s.extractField.arg = s.arg := rfl
@[simp] theorem State.extractField_status : s.extractField.status = StatusCode.ok := rfl
@[simp] theorem State.extractField_rxState : s.extractField.rxState = s.rxState := rfl
@[simp] theorem State.extractField_rxx : s.extractField.rxx = s.rxx := rfl
@[simp] theorem State.extractField_rxec : s.extractField.rxec = s.rxec := rfl
@[simp] theorem State.extractField_rxcnt : s.extractField.rxcnt = s.rxcnt := rfl
@[simp] theorem State.extractField_rxsum : s.extractField.rxsum = s.rxsum := rfl
@[simp] theorem State.extractField_eOpcode : s.extractField.eOpcode = s.eOpcode := rfl
@[simp] theorem State.extractField_eLen : s.extractField.eLen = s.eLen := rfl
@[simp] theorem State.extractField_txlen : s.extractField.txlen = s.txlen := rfl
@[simp] theorem State.extractField_xOff : s.extractField.xOff = s.xOff := rfl
@[simp] theorem State.extractField_xWid : s.extractField.xWid = s.xWid := rfl
@[simp] theorem State.extractField_xSgn : s.extractField.xSgn = s.xSgn := rfl
@[simp] theorem State.extractField_xShift : s.extractField.xShift = s.xShift := rfl
@[simp] theorem State.extractField_xMant : s.extractField.xMant = s.xMant := rfl
@[simp] theorem State.extractField_xRaw : s.extractField.xRaw = BitVec.ofInt 32 s.extractedRaw := rfl
@[simp] theorem State.extractField_xRsh : s.extractField.xRsh = s.xShift := rfl
@[simp] theorem State.extractField_xScaled : s.extractField.xScaled = BitVec.ofInt 64 (scaledValue s.extractedRaw s.mantissaOperand) := rfl
@[simp] theorem State.extractField_fcnt : s.extractField.fcnt = s.fcnt := rfl
@[simp] theorem State.extractField_mem : s.extractField.mem = s.mem := rfl
@[simp] theorem State.extractField_respMarker : s.extractField.respMarker = s.respMarker := rfl
@[simp] theorem State.extractField_catalog : s.extractField.catalog = s.catalog := rfl
@[simp] theorem State.extractField_pending : s.extractField.pending = s.pending := rfl
@[simp] theorem State.extractField_reads : s.extractField.reads = s.reads := rfl
@[simp] theorem State.extractField_epoch : s.extractField.epoch = s.epoch := rfl

/-! The failing FDEC (R188). -/

@[simp] theorem State.decodeFail_arg (e : StatusCode) : (s.decodeFail e).arg = s.arg := rfl
@[simp] theorem State.decodeFail_status (e : StatusCode) : (s.decodeFail e).status = e := rfl
@[simp] theorem State.decodeFail_rxState (e : StatusCode) : (s.decodeFail e).rxState = s.rxState := rfl
@[simp] theorem State.decodeFail_rxx (e : StatusCode) : (s.decodeFail e).rxx = s.rxx := rfl
@[simp] theorem State.decodeFail_rxec (e : StatusCode) : (s.decodeFail e).rxec = s.rxec := rfl
@[simp] theorem State.decodeFail_rxcnt (e : StatusCode) : (s.decodeFail e).rxcnt = s.rxcnt := rfl
@[simp] theorem State.decodeFail_rxsum (e : StatusCode) : (s.decodeFail e).rxsum = s.rxsum := rfl
@[simp] theorem State.decodeFail_eOpcode (e : StatusCode) : (s.decodeFail e).eOpcode = s.eOpcode := rfl
@[simp] theorem State.decodeFail_eLen (e : StatusCode) : (s.decodeFail e).eLen = s.eLen := rfl
@[simp] theorem State.decodeFail_txlen (e : StatusCode) : (s.decodeFail e).txlen = s.txlen := rfl
@[simp] theorem State.decodeFail_xOff (e : StatusCode) : (s.decodeFail e).xOff = s.xOff := rfl
@[simp] theorem State.decodeFail_xWid (e : StatusCode) : (s.decodeFail e).xWid = s.xWid := rfl
@[simp] theorem State.decodeFail_xSgn (e : StatusCode) : (s.decodeFail e).xSgn = s.xSgn := rfl
@[simp] theorem State.decodeFail_xShift (e : StatusCode) : (s.decodeFail e).xShift = s.xShift := rfl
@[simp] theorem State.decodeFail_xMant (e : StatusCode) : (s.decodeFail e).xMant = s.xMant := rfl
@[simp] theorem State.decodeFail_xRaw (e : StatusCode) : (s.decodeFail e).xRaw = s.xRaw := rfl
@[simp] theorem State.decodeFail_xRsh (e : StatusCode) : (s.decodeFail e).xRsh = s.xRsh := rfl
@[simp] theorem State.decodeFail_xScaled (e : StatusCode) : (s.decodeFail e).xScaled = s.xScaled := rfl
@[simp] theorem State.decodeFail_fcnt (e : StatusCode) : (s.decodeFail e).fcnt = 0x00#8 := rfl
@[simp] theorem State.decodeFail_mem (e : StatusCode) : (s.decodeFail e).mem = s.mem := rfl
@[simp] theorem State.decodeFail_respMarker (e : StatusCode) : (s.decodeFail e).respMarker = s.respMarker := rfl
@[simp] theorem State.decodeFail_catalog (e : StatusCode) : (s.decodeFail e).catalog = s.catalog := rfl
@[simp] theorem State.decodeFail_pending (e : StatusCode) : (s.decodeFail e).pending = s.pending := rfl
@[simp] theorem State.decodeFail_reads (e : StatusCode) : (s.decodeFail e).reads = s.reads := rfl
@[simp] theorem State.decodeFail_epoch (e : StatusCode) : (s.decodeFail e).epoch = s.epoch := rfl

/-! The succeeding FDEC (R188). -/

@[simp] theorem State.decodeDescriptor_arg (d : Descriptor) : (s.decodeDescriptor d).arg = s.arg := rfl
@[simp] theorem State.decodeDescriptor_status (d : Descriptor) : (s.decodeDescriptor d).status = StatusCode.ok := rfl
@[simp] theorem State.decodeDescriptor_rxState (d : Descriptor) : (s.decodeDescriptor d).rxState = s.rxState := rfl
@[simp] theorem State.decodeDescriptor_rxx (d : Descriptor) : (s.decodeDescriptor d).rxx = s.rxx := rfl
@[simp] theorem State.decodeDescriptor_rxec (d : Descriptor) : (s.decodeDescriptor d).rxec = s.rxec := rfl
@[simp] theorem State.decodeDescriptor_rxcnt (d : Descriptor) : (s.decodeDescriptor d).rxcnt = s.rxcnt := rfl
@[simp] theorem State.decodeDescriptor_rxsum (d : Descriptor) : (s.decodeDescriptor d).rxsum = s.rxsum := rfl
@[simp] theorem State.decodeDescriptor_eOpcode (d : Descriptor) : (s.decodeDescriptor d).eOpcode = s.eOpcode := rfl
@[simp] theorem State.decodeDescriptor_eLen (d : Descriptor) : (s.decodeDescriptor d).eLen = s.eLen := rfl
@[simp] theorem State.decodeDescriptor_txlen (d : Descriptor) : (s.decodeDescriptor d).txlen = s.txlen := rfl
@[simp] theorem State.decodeDescriptor_xOff (d : Descriptor) : (s.decodeDescriptor d).xOff = s.xOff := rfl
@[simp] theorem State.decodeDescriptor_xWid (d : Descriptor) : (s.decodeDescriptor d).xWid = s.xWid := rfl
@[simp] theorem State.decodeDescriptor_xSgn (d : Descriptor) : (s.decodeDescriptor d).xSgn = s.xSgn := rfl
@[simp] theorem State.decodeDescriptor_xShift (d : Descriptor) : (s.decodeDescriptor d).xShift = s.xShift := rfl
@[simp] theorem State.decodeDescriptor_xMant (d : Descriptor) : (s.decodeDescriptor d).xMant = s.xMant := rfl
@[simp] theorem State.decodeDescriptor_xRaw (d : Descriptor) : (s.decodeDescriptor d).xRaw = s.xRaw := rfl
@[simp] theorem State.decodeDescriptor_xRsh (d : Descriptor) : (s.decodeDescriptor d).xRsh = s.xRsh := rfl
@[simp] theorem State.decodeDescriptor_xScaled (d : Descriptor) : (s.decodeDescriptor d).xScaled = s.xScaled := rfl
@[simp] theorem State.decodeDescriptor_fcnt (d : Descriptor) : (s.decodeDescriptor d).fcnt = BitVec.ofNat 8 d.fields.length := rfl
@[simp] theorem State.decodeDescriptor_mem (d : Descriptor) : (s.decodeDescriptor d).mem = Memory.setRange s.mem (foutAddr 0) (descriptorBytes d s.frameBody) := rfl
@[simp] theorem State.decodeDescriptor_respMarker (d : Descriptor) : (s.decodeDescriptor d).respMarker = s.respMarker := rfl
@[simp] theorem State.decodeDescriptor_catalog (d : Descriptor) : (s.decodeDescriptor d).catalog = s.catalog := rfl
@[simp] theorem State.decodeDescriptor_pending (d : Descriptor) : (s.decodeDescriptor d).pending = s.pending := rfl
@[simp] theorem State.decodeDescriptor_reads (d : Descriptor) : (s.decodeDescriptor d).reads = s.reads := rfl
@[simp] theorem State.decodeDescriptor_epoch (d : Descriptor) : (s.decodeDescriptor d).epoch = s.epoch := rfl

end Sys2Proof.Machine
end

