-- ==== Sys2Proof/Laws/Memory.lean ====
section
/-! SUPPORT. The laws of the memory of the buffers: read after write, the canonical form, and what the reads of
the state see of each update. -/

namespace Sys2Proof.Machine

/-! ### Read after write -/

theorem Memory.find?_set (m : Memory) (a : Nat) (b : Byte) (x : Nat) :
    Memory.find? (Memory.set m a b) x = if x = a then some b else Memory.find? m x := by
  induction m with
  | nil => simp [Memory.set, Memory.find?, eq_comm]
  | cons c m ih =>
    obtain ⟨k, v⟩ := c
    simp only [Memory.set]
    split
    · simp [Memory.find?, eq_comm]
    · split
      · rename_i h
        subst h
        simp only [Memory.find?]
        by_cases hx : x = k
        · simp [hx]
        · simp [hx, Ne.symm hx]
      · simp only [Memory.find?, ih]
        by_cases hk : k = x
        · have : x ≠ a := by omega
          simp [hk, this]
        · simp [hk]

theorem Memory.find?_setRange (m : Memory) (a : Nat) (bs : List Byte) (x : Nat) :
    Memory.find? (Memory.setRange m a bs) x =
      if a ≤ x ∧ x < a + bs.length then bs[x - a]? else Memory.find? m x := by
  induction bs generalizing m a with
  | nil =>
    simp [Memory.setRange]
  | cons b bs ih =>
    simp only [Memory.setRange, ih, Memory.find?_set, List.length_cons]
    by_cases h1 : x = a
    · subst h1
      simp
    · by_cases h2 : a + 1 ≤ x ∧ x < a + 1 + bs.length
      · have h3 : a ≤ x ∧ x < a + (bs.length + 1) := by omega
        have h4 : x - a = (x - (a + 1)) + 1 := by omega
        rw [if_pos h2, if_pos h3, h4, List.getElem?_cons_succ]
      · have h3 : ¬ (a ≤ x ∧ x < a + (bs.length + 1)) := by omega
        rw [if_neg h2, if_neg h1, if_neg h3]

/-- A written byte stays written. -/
theorem Memory.find?_isSome_set {m : Memory} {x : Nat} (a : Nat) (b : Byte)
    (h : (Memory.find? m x).isSome = true) : (Memory.find? (Memory.set m a b) x).isSome = true := by
  rw [Memory.find?_set]
  split
  · rfl
  · exact h

theorem Memory.find?_isSome_setRange {m : Memory} {x : Nat} (a : Nat) (bs : List Byte)
    (h : (Memory.find? m x).isSome = true) : (Memory.find? (Memory.setRange m a bs) x).isSome = true := by
  rw [Memory.find?_setRange]
  split
  · simp
    omega
  · exact h

/-! ### The canonical form -/

theorem Memory.wf_cons {k : Nat} {v : Byte} {m : Memory} :
    Memory.wf ((k, v) :: m) = true ↔ (∀ c ∈ m, k < c.1) ∧ Memory.wf m = true := by
  induction m generalizing k v with
  | nil => simp [Memory.wf]
  | cons c m ih =>
    obtain ⟨j, w⟩ := c
    simp only [Memory.wf, Bool.and_eq_true, decide_eq_true_eq, List.mem_cons, forall_eq_or_imp]
    constructor
    · rintro ⟨hkj, hm⟩
      exact ⟨⟨hkj, fun d hd => Nat.lt_trans hkj ((ih.mp hm).1 d hd)⟩, hm⟩
    · rintro ⟨⟨hkj, -⟩, hm⟩
      exact ⟨hkj, hm⟩

theorem Memory.mem_set {m : Memory} {a : Nat} {b : Byte} {c : Host.Cell}
    (h : c ∈ Memory.set m a b) : c = (a, b) ∨ c ∈ m := by
  induction m with
  | nil => simpa [Memory.set] using h
  | cons d m ih =>
    obtain ⟨k, v⟩ := d
    simp only [Memory.set] at h
    split at h
    · simpa using h
    · split at h
      · rcases List.mem_cons.mp h with h | h
        · exact .inl h
        · exact .inr (List.mem_cons_of_mem _ h)
      · rcases List.mem_cons.mp h with h | h
        · exact .inr (h ▸ List.mem_cons_self)
        · exact (ih h).imp id (List.mem_cons_of_mem _)

/-- Writing a byte keeps the canonical form. -/
theorem Memory.wf_set {m : Memory} (a : Nat) (b : Byte) (h : Memory.wf m = true) :
    Memory.wf (Memory.set m a b) = true := by
  induction m with
  | nil => rfl
  | cons c m ih =>
    obtain ⟨k, v⟩ := c
    obtain ⟨hk, hm⟩ := Memory.wf_cons.mp h
    simp only [Memory.set]
    split
    · rename_i hak
      refine Memory.wf_cons.mpr ⟨?_, h⟩
      intro c hc
      rcases List.mem_cons.mp hc with rfl | hc
      · exact hak
      · exact Nat.lt_trans hak (hk c hc)
    · split
      · rename_i h2
        exact Memory.wf_cons.mpr ⟨fun c hc => h2 ▸ hk c hc, hm⟩
      · refine Memory.wf_cons.mpr ⟨?_, ih hm⟩
        intro c hc
        rcases Memory.mem_set hc with rfl | hc
        · show k < a
          omega
        · exact hk c hc

/-- Writing consecutive bytes keeps the canonical form. -/
theorem Memory.wf_setRange {m : Memory} (a : Nat) (bs : List Byte) (h : Memory.wf m = true) :
    Memory.wf (Memory.setRange m a bs) = true := by
  induction bs generalizing m a with
  | nil => exact h
  | cons b bs ih => exact ih (a + 1) (Memory.wf_set a b h)

theorem Memory.mem_setRange {m : Memory} {a : Nat} {bs : List Byte} {c : Host.Cell}
    (h : c ∈ Memory.setRange m a bs) : (a ≤ c.1 ∧ c.1 < a + bs.length) ∨ c ∈ m := by
  induction bs generalizing m a with
  | nil => exact .inr h
  | cons b bs ih =>
    rcases ih h with h | h
    · exact .inl (by simp only [List.length_cons]; omega)
    · rcases Memory.mem_set h with rfl | h
      · exact .inl (by simp only [List.length_cons]; omega)
      · exact .inr h

/-- The memory of the reset state is in canonical form. -/
theorem State.reset_mem_wf : Memory.wf State.reset.mem = true := rfl

/-! ### Reads of the buffers -/

@[simp] theorem State.bufByte_setBufByte (s : State) (a : Nat) (b : Byte) (x : Nat) :
    (s.setBufByte a b).bufByte x = if x = a then b else s.bufByte x := by
  simp only [State.bufByte, cellByte, State.setBufByte_mem, State.setBufByte_epoch, Memory.find?_set]
  split <;> simp

theorem State.bufByte_setBufBytes (s : State) (a : Nat) (bs : List Byte) (x : Nat) :
    (s.setBufBytes a bs).bufByte x =
      if a ≤ x ∧ x < a + bs.length then bs.getD (x - a) 0x00#8 else s.bufByte x := by
  simp only [State.bufByte, cellByte, State.setBufBytes_mem, State.setBufBytes_epoch, Memory.find?_setRange]
  split
  · rename_i h
    have : x - a < bs.length := by omega
    simp [List.getD, this]
  · rfl

/-- A buffer read sees only the memory and the reset count. -/
theorem State.bufByte_congr {s t : State} (hm : t.mem = s.mem) (he : t.epoch = s.epoch) (x : Nat) :
    t.bufByte x = s.bufByte x := by
  simp [State.bufByte, hm, he]

theorem State.bufBytes_of_mem {s t : State} (hm : t.mem = s.mem) (he : t.epoch = s.epoch) (a n : Nat) :
    t.bufBytes a n = s.bufBytes a n := by
  simp [State.bufBytes, hm, he]

/-- A buffer byte that has been written does not depend on the free value. -/
theorem State.bufByte_of_find? {s : State} {x : Nat} {b : Byte} (h : Memory.find? s.mem x = some b) :
    s.bufByte x = b := by
  simp [State.bufByte, cellByte, h]

theorem cellBytes_length (m : Memory) (e a n : Nat) : (cellBytes m e a n).length = n := by
  induction n generalizing a with
  | zero => rfl
  | succ n ih => simp [cellBytes, ih]

theorem cellBytes_getElem? (m : Memory) (e a n i : Nat) :
    (cellBytes m e a n)[i]? = if i < n then some (cellByte m e (a + i)) else none := by
  induction n generalizing a i with
  | zero => simp [cellBytes]
  | succ n ih =>
    cases i with
    | zero => simp [cellBytes]
    | succ i =>
      simp only [cellBytes, List.getElem?_cons_succ, ih, Nat.add_lt_add_iff_right]
      congr 2
      · congr 1; omega

@[simp] theorem State.bufBytes_length (s : State) (a n : Nat) : (s.bufBytes a n).length = n :=
  cellBytes_length ..

theorem State.bufBytes_getElem? (s : State) (a n i : Nat) :
    (s.bufBytes a n)[i]? = if i < n then some (s.bufByte (a + i)) else none :=
  cellBytes_getElem? ..

/-- The bytes of a buffer range, index by index. -/
theorem State.bufBytes_eq_map (s : State) (a n : Nat) :
    s.bufBytes a n = (List.range n).map fun i => s.bufByte (a + i) := by
  apply List.ext_getElem?
  intro i
  rw [State.bufBytes_getElem?]
  by_cases h : i < n <;> simp [h]

/-- Two states whose cells agree have the same bytes there. -/
theorem State.bufBytes_congr {s t : State} {a n : Nat}
    (h : ∀ i, i < n → t.bufByte (a + i) = s.bufByte (a + i)) : t.bufBytes a n = s.bufBytes a n := by
  rw [State.bufBytes_eq_map, State.bufBytes_eq_map]
  exact List.map_congr_left fun i hi => h i (List.mem_range.mp hi)

/-- One more byte of a buffer range. -/
theorem State.bufBytes_succ (s : State) (a n : Nat) :
    s.bufBytes a (n + 1) = s.bufBytes a n ++ [s.bufByte (a + n)] := by
  simp [State.bufBytes_eq_map, List.range_succ]

end Sys2Proof.Machine
end

