-- ==== Sys2Proof/Laws/AddressMap.lean ====
section
/-! SUPPORT. The address map: its rows do not overlap, the row of an address is unique, and the bytes of the
multi-byte registers. -/

namespace Sys2Proof.Machine

/-- The rows of the map stand in rising order and do not overlap. -/
theorem addressMap_sorted : addressMap.Pairwise fun r q => r.base + r.size ≤ q.base := by decide

theorem Region.covers_iff {r : Region} {a : Nat} :
    r.covers a = true ↔ r.base ≤ a ∧ a < r.base + r.size := by
  simp [Region.covers]

theorem find?_covers_of_sorted {l : List Region} (hl : l.Pairwise fun r q => r.base + r.size ≤ q.base)
    {r : Region} (hr : r ∈ l) {a : Nat} (ha : r.covers a = true) :
    (l.find? fun q => q.covers a) = some r := by
  induction l with
  | nil => cases hr
  | cons q l ih =>
    rw [List.pairwise_cons] at hl
    rcases List.mem_cons.mp hr with rfl | hr
    · simp [ha]
    · have hq : q.covers a = false := by
        have h1 := hl.1 r hr
        have h2 := Region.covers_iff.mp ha
        simp only [Region.covers]
        simp
        omega
      simp [hq, ih hl.2 hr]

/-- The row that covers an address is the one `regionOf` finds. -/
theorem regionOf_eq_some {a : Addr} {r : Region} (hr : r ∈ addressMap) (h1 : r.base ≤ a.toNat)
    (h2 : a.toNat < r.base + r.size) : regionOf a = some r :=
  find?_covers_of_sorted addressMap_sorted hr (Region.covers_iff.mpr ⟨h1, h2⟩)

/-- `regionOf` finds a row of the map that covers the address. -/
theorem regionOf_spec {a : Addr} {r : Region} (h : regionOf a = some r) :
    r ∈ addressMap ∧ r.base ≤ a.toNat ∧ a.toNat < r.base + r.size :=
  ⟨List.mem_of_find?_eq_some h, Region.covers_iff.mp (by simpa using List.find?_some h)⟩

/-- An address outside every row has none. -/
theorem regionOf_eq_none {a : Addr} (h : ∀ r ∈ addressMap, ¬ (r.base ≤ a.toNat ∧ a.toNat < r.base + r.size)) :
    regionOf a = none := by
  refine List.find?_eq_none.mpr fun r hr hc => h r hr (Region.covers_iff.mp hc)

theorem regionOf_unmapped {a : Addr} (h : UnmappedAddr a.toNat) : regionOf a = none := by
  refine regionOf_eq_none fun r hr hc => ?_
  unfold UnmappedAddr at h
  simp only [addressMap, List.mem_cons, List.not_mem_nil, or_false] at hr
  rcases hr with rfl | rfl | rfl | rfl | rfl | rfl | rfl | rfl | rfl | rfl | rfl | rfl | rfl | rfl | rfl |
    rfl | rfl | rfl | rfl | rfl | rfl | rfl | rfl <;> simp only at hc <;> omega

/-- The bus read of a mapped address. -/
theorem memRead_of_region {a : Addr} {r : Region} (hr : r ∈ addressMap) (h1 : r.base ≤ a.toNat)
    (h2 : a.toNat < r.base + r.size) (s : State) :
    memRead a s = if r.access = .w then 0x00#8 else s.locByte r.loc (a.toNat - r.base) a.toNat := by
  simp [memRead, regionOf_eq_some hr h1 h2]

/-- The bus read of an unmapped address (spec/20_memory.md R72). -/
theorem memRead_unmapped {a : Addr} (h : UnmappedAddr a.toNat) (s : State) : memRead a s = 0x00#8 := by
  simp [memRead, regionOf_unmapped h]

/-- The addresses of the buffers that steps write are buffer addresses. -/
theorem isBufferAddr_of_region {r : Region} (hr : r ∈ addressMap) (hb : r.loc.isBuffer = true) {a : Nat}
    (h1 : r.base ≤ a) (h2 : a < r.base + r.size) : isBufferAddr a = true :=
  List.any_eq_true.mpr ⟨r, hr, by rw [hb, Region.covers_iff.mpr ⟨h1, h2⟩]; rfl⟩

theorem isBufferAddr_rxbuf {i : Nat} (h : i < 260) : isBufferAddr (rxbufAddr i) = true :=
  isBufferAddr_of_region (r := ⟨0x0100, 260, .rxbuf, .r⟩) (by decide) rfl (by simp [rxbufAddr])
    (by simp [rxbufAddr]; omega)

theorem isBufferAddr_txbuf {i : Nat} (h : i < 260) : isBufferAddr (txbufAddr i) = true :=
  isBufferAddr_of_region (r := ⟨0x0400, 260, .txbuf, .r⟩) (by decide) rfl (by simp [txbufAddr])
    (by simp [txbufAddr]; omega)

theorem isBufferAddr_fout {a : Nat} (h1 : foutAddr 0 ≤ a) (h2 : a < foutAddr 0 + 4080) : isBufferAddr a = true :=
  isBufferAddr_of_region (r := ⟨0x1000, 4080, .fout, .r⟩) (by decide) rfl h1 h2

/-- Byte `k` of a pattern as a number. -/
theorem byteOf_toNat {n : Nat} (v : BitVec n) (k : Nat) :
    (byteOf v k).toNat = v.toNat / 256 ^ k % 256 := by
  simp [byteOf, BitVec.extractLsb'_toNat, Nat.shiftRight_eq_div_pow, Nat.pow_mul]

/-- The value of a byte list, the first byte taken off. -/
theorem leValue_range_byteOf {n : Nat} (v : BitVec n) (j count : Nat) :
    leValue ((List.range' j count).map (byteOf v)) = v.toNat / 256 ^ j % 256 ^ count := by
  induction count generalizing j with
  | zero => simp [leValue, Nat.mod_one]
  | succ c ih =>
    simp only [List.range'_succ, List.map_cons, leValue, ih, byteOf_toNat]
    rw [Nat.pow_succ 256 j, ← Nat.div_div_eq_div_mul, Nat.pow_succ 256 c, Nat.mul_comm (256 ^ c) 256,
      Nat.mod_mul]

/-- The little-endian bytes of a pattern give its value back (spec/20_memory.md R74). -/
theorem leValue_leBytes {n : Nat} (v : BitVec n) (count : Nat) (h : n ≤ 8 * count) :
    leValue (leBytes count v) = v.toNat := by
  have hv : v.toNat < 256 ^ count := by
    calc v.toNat < 2 ^ n := v.isLt
      _ ≤ 2 ^ (8 * count) := Nat.pow_le_pow_right (by omega) h
      _ = 256 ^ count := by rw [Nat.pow_mul]
  rw [leBytes, List.range_eq_range', leValue_range_byteOf, Nat.pow_zero, Nat.div_one, Nat.mod_eq_of_lt hv]

/-- A byte of a register after one byte of it was replaced (spec/40_host_access.md R122). -/
theorem byteOf_withByte {n : Nat} (v : BitVec n) (k j : Nat) (b : Byte) (hk : 8 * k + 8 ≤ n) (hj : 8 * j + 8 ≤ n) :
    byteOf (withByte v k b) j = if j = k then b else byteOf v j := by
  have hff : ∀ i, (0xFF#8).getLsbD i = decide (i < 8) := by
    intro i
    rcases Nat.lt_or_ge i 8 with h | h
    · interval_cases i <;> rfl
    · simp [BitVec.getLsbD_of_ge _ _ h, show ¬ i < 8 by omega]
  apply BitVec.eq_of_getLsbD_eq
  intro i hi
  simp only [byteOf, withByte, BitVec.getLsbD_extractLsb', BitVec.getLsbD_or, BitVec.getLsbD_and,
    BitVec.getLsbD_not, BitVec.getLsbD_shiftLeft, BitVec.getLsbD_setWidth, hff]
  by_cases hjk : j = k
  · subst hjk
    simp [hi, show 8 * j + i < n by omega, show i < n by omega]
  · simp only [hjk, if_false, BitVec.getLsbD_extractLsb']
    rcases Nat.lt_or_ge j k with h | h
    · simp [hi, show 8 * j + i < n by omega, show 8 * j + i < 8 * k by omega]
    · simp [hi, show 8 * j + i < n by omega, show ¬ 8 * j + i < 8 * k by omega,
        show ¬ 8 * j + i - 8 * k < 8 by omega, BitVec.getLsbD_of_ge b (8 * j + i - 8 * k) (by omega)]

/-- What a write to one location leaves at another, or at another byte of the same one. -/
theorem State.locByte_storeLoc_of_ne (s : State) {l l' : Loc} {k k' a a' : Nat} (v : Byte) (ha : a ≠ a')
    (hl : l ≠ l' ∨ l.isBuffer = true ∨ (l = .eLen ∧ k' ≠ k ∧ k < 2 ∧ k' < 2) ∨
      (l = .xMant ∧ k' ≠ k ∧ k < 4 ∧ k' < 4)) :
    (s.storeLoc l k a v).locByte l' k' a' = s.locByte l' k' a' := by
  by_cases he : l = l'
  · subst he
    simp only [ne_eq, not_true_eq_false, false_or] at hl
    rcases hl with hl | ⟨rfl, hk, h1, h2⟩ | ⟨rfl, hk, h1, h2⟩
    · cases l <;> simp [Loc.isBuffer] at hl <;> first | rfl | simp [State.storeLoc, State.locByte, Ne.symm ha]
    · exact (byteOf_withByte s.eLen k k' v (by omega) (by omega)).trans (if_neg hk)
    · exact (byteOf_withByte s.xMant k k' v (by omega) (by omega)).trans (if_neg hk)
  · cases l <;> cases l' <;> first
      | rfl
      | exact absurd rfl he
      | simp [State.storeLoc, State.locByte, Ne.symm ha]

end Sys2Proof.Machine
end

