-- ==== Sys2Proof/Laws/Checksum.lean ====
section
/-! SUPPORT. How CK8 builds up byte by byte. -/

namespace Sys2Proof.Machine

@[simp] theorem ck8_nil : ck8 [] = 0x00#8 := rfl

/-- One more byte at the end is added to the sum: RXSUM's update (spec/43_receiver.md R152). -/
theorem ck8_append_singleton (l : List Byte) (b : Byte) : ck8 (l ++ [b]) = ck8 l + b := by
  simp [ck8, List.foldl_append]

end Sys2Proof.Machine
end

