-- ==== Sys2Proof/Laws/Decode.lean ====
section
/-! SUPPORT. The fields of a transaction word and what the decoder and the encoder do with them. -/

namespace Sys2Proof

@[simp] theorem htwKind_htwOf (k : BitVec 2) (a : Addr) (d : Byte) : htwKind (htwOf k a d) = k := by
  apply BitVec.eq_of_getElem_eq
  intro i hi
  simp only [htwKind, htwOf]
  have : i = 0 ∨ i = 1 := by omega
  rcases this with rfl | rfl <;> simp

@[simp] theorem htwRsv_htwOf (k : BitVec 2) (a : Addr) (d : Byte) : htwRsv (htwOf k a d) = 0#6 := by
  simp only [htwRsv, htwOf]
  ext i hi
  have h3 : (24 + i < 30) := by omega
  simp only [BitVec.getElem_extractLsb', BitVec.getLsbD_or, BitVec.getLsbD_shiftLeft, BitVec.getLsbD_setWidth]
  simp [h3, BitVec.getLsbD_of_ge a (24 + i - 8) (by omega), BitVec.getLsbD_of_ge d (24 + i) (by omega)]

@[simp] theorem htwAddr_htwOf (k : BitVec 2) (a : Addr) (d : Byte) : htwAddr (htwOf k a d) = a := by
  simp only [htwAddr, htwOf]
  ext i hi
  have h3 : (8 + i < 30) := by omega
  have h4 : (8 + i < 32) := by omega
  simp [h3, h4, BitVec.getLsbD_eq_getElem hi]

@[simp] theorem htwData_htwOf (k : BitVec 2) (a : Addr) (d : Byte) : htwData (htwOf k a d) = d := by
  simp only [htwData, htwOf]
  ext i hi
  have h3 : (i < 30) := by omega
  have h4 : (i < 32) := by omega
  simp [h3, h4, hi]

@[simp] theorem htwKind_setWidth (g : BitVec 30) : htwKind (g.setWidth 32) = 0b00#2 := by
  apply BitVec.eq_of_getElem_eq
  intro i hi
  have : i = 0 ∨ i = 1 := by omega
  rcases this with rfl | rfl <;> simp [htwKind]

@[simp] theorem htwIgnored_setWidth (g : BitVec 30) : htwIgnored (g.setWidth 32) = g := by
  simp only [htwIgnored]
  ext i hi
  simp [hi, show i < 32 by omega]

/-- A word whose RSV is 0 is the word of its other fields. -/
theorem htwOf_fields (w : Htw) (h : htwRsv w = 0#6) : htwOf (htwKind w) (htwAddr w) (htwData w) = w := by
  have hr : ∀ i, i < 6 → w.getLsbD (24 + i) = false := by
    intro i hi
    have := congrArg (fun v => v.getLsbD i) h
    simpa [htwRsv, hi] using this
  apply BitVec.eq_of_getElem_eq
  intro i hi
  simp only [htwOf, htwKind, htwAddr, htwData]
  by_cases h1 : i < 8
  · simp [h1, show i < 30 by omega]
    rfl
  · by_cases h2 : i < 24
    · simp [h1, show i < 30 by omega, show i - 8 < 16 by omega, show 8 + (i - 8) = i by omega]
      rfl
    · by_cases h3 : i < 30
      · have := hr (i - 24) (by omega)
        rw [show 24 + (i - 24) = i by omega, BitVec.getLsbD_eq_getElem hi] at this
        simp [h1, h3, show ¬ (i - 8 < 16) by omega, this]
      · simp [h1, h3, show ¬ (i - 8 < 16) by omega, show i - 30 < 2 by omega, show 30 + (i - 30) = i by omega]
        rfl

/-- A word of KIND 00 is the word of its other bits. -/
theorem htwIgnored_of_idle (w : Htw) (h : htwKind w = 0b00#2) : (htwIgnored w).setWidth 32 = w := by
  have hr : ∀ i, i < 2 → w.getLsbD (30 + i) = false := by
    intro i hi
    have := congrArg (fun v => v.getLsbD i) h
    simpa [htwKind, hi] using this
  apply BitVec.eq_of_getElem_eq
  intro i hi
  by_cases h3 : i < 30
  · simp [htwIgnored, h3]
    rfl
  · have := hr (i - 30) (by omega)
    rw [show 30 + (i - 30) = i by omega, BitVec.getLsbD_eq_getElem hi] at this
    simp [htwIgnored, h3, this]

/-- The four kinds of a word. -/
theorem htwKind_cases (w : Htw) :
    htwKind w = 0b00#2 ∨ htwKind w = 0b01#2 ∨ htwKind w = 0b10#2 ∨ htwKind w = 0b11#2 := by
  generalize htwKind w = k
  revert k
  decide

/-- What a command code stands for is well formed, and encodes as the write of that code to CMD. -/
theorem encode_decodeCommand (c : Byte) :
    (decodeCommand c).wellFormed = true ∧ encode (decodeCommand c) = htwOf 0b01#2 0x0000#16 c := by
  revert c
  decide

/-- What a write stands for is well formed, and encodes as that write. -/
theorem encode_decodeWrite (a : Addr) (d : Byte) :
    (decodeWrite a d).wellFormed = true ∧ encode (decodeWrite a d) = htwOf 0b01#2 a d := by
  unfold decodeWrite
  split
  · rename_i h
    exact h ▸ encode_decodeCommand d
  · split
    · rename_i h
      exact h ▸ ⟨rfl, rfl⟩
    · simp_all [Instr.wellFormed, wellFormedWrite, encode]

/-- Every way a word decodes. -/
theorem decode_cases (w : Htw) :
    (htwKind w = 0b00#2 ∧ decode w = .ok (.idle (htwIgnored w))) ∨
    (htwKind w = 0b01#2 ∧ htwRsv w = 0#6 ∧ decode w = .ok (decodeWrite (htwAddr w) (htwData w))) ∨
    (htwKind w = 0b10#2 ∧ htwRsv w = 0#6 ∧ htwData w = 0x00#8 ∧ decode w = .ok (.rd (htwAddr w))) ∨
    (htwKind w = 0b11#2 ∧ decode w = .error .illegalKind) ∨
    ((htwKind w = 0b01#2 ∨ htwKind w = 0b10#2) ∧ htwRsv w ≠ 0#6 ∧ decode w = .error .reservedNotZero) ∨
    (htwKind w = 0b10#2 ∧ htwRsv w = 0#6 ∧ htwData w ≠ 0x00#8 ∧ decode w = .error .readDataNotZero) := by
  rcases htwKind_cases w with h | h | h | h <;> simp only [decode, h]
  · simp
  · by_cases hr : htwRsv w = 0#6 <;> simp [hr]
  · by_cases hr : htwRsv w = 0#6 <;> by_cases hd : htwData w = 0#8 <;> simp [hr, hd]
  · simp

end Sys2Proof
end

