-- ==== Sys2Proof/Laws/Fields.lean ====
section
/-! SUPPORT. Everything FX and FDEC can do, case by case, and the bytes of FOUT entries. -/

namespace Sys2Proof.Machine

/-- The legal widths are 1 to 4 (spec/10_state.md R34). -/
theorem legalWidth_iff (w : Nat) : legalWidth w = true ↔ 1 ≤ w ∧ w ≤ 4 := by simp [legalWidth]

/-- Only a fixed length can differ from a frame's length byte (spec/44_fields.md R188). -/
theorem lengthDiffers_iff (len : BodyLength) (l : Byte) :
    lengthDiffers len l = true ↔ ∃ n, len = .fixed n ∧ l ≠ n := by
  cases len <;> simp [lengthDiffers]

/-- Some field ends past the body (spec/44_fields.md R188). -/
theorem fieldRunsPast_iff (d : Descriptor) (l : Nat) :
    fieldRunsPast d l = true ↔ ∃ f ∈ d.fields, f.off + f.wid > l := by
  simp [fieldRunsPast, fieldEnd]

/-- What FX can do (spec/44_fields.md R187). -/
theorem State.fieldExtract_cases (s : State) :
    (legalWidth s.widthOperand = false ∧ s.fieldExtract = s.raise .badFieldSpec) ∨
    (legalWidth s.widthOperand = true ∧ s.rxState ≠ .done ∧ s.fieldExtract = s.raise .noFrame) ∨
    (legalWidth s.widthOperand = true ∧ s.rxState = .done ∧
      s.offsetOperand + s.widthOperand > s.frameLength ∧ s.fieldExtract = s.raise .fieldOutOfRange) ∨
    (legalWidth s.widthOperand = true ∧ s.rxState = .done ∧
      s.offsetOperand + s.widthOperand ≤ s.frameLength ∧ s.fieldExtract = s.extractField) := by
  unfold State.fieldExtract
  split
  · exact .inl ⟨by assumption, rfl⟩
  · rename_i h1
    rw [Bool.not_eq_false] at h1
    split
    · exact .inr (.inl ⟨h1, by assumption, rfl⟩)
    · rename_i h2
      rw [ne_eq, not_not] at h2
      split
      · exact .inr (.inr (.inl ⟨h1, h2, by assumption, rfl⟩))
      · exact .inr (.inr (.inr ⟨h1, h2, by omega, rfl⟩))

/-- What FDEC can do (spec/44_fields.md R188): fail with one of its five codes, or decode a descriptor of the catalog
from an accepted frame that holds all of its fields. -/
theorem State.decodeFields_cases (s : State) :
    (∃ e, s.decodeFields = s.decodeFail e ∧
      (e = .unknownCommand ∨ e = .noFrame ∨ e = .unexpectedOpcode ∨ e = .unexpectedBodyLength ∨
        e = .fieldOutOfRange)) ∨
    (∃ d, lookup s.catalog s.arg = some d ∧ s.rxState = .done ∧ s.rxbuf 1 = s.arg ∧
      lengthDiffers d.fixed (s.rxbuf 2) = false ∧ fieldRunsPast d s.frameLength = false ∧
      s.decodeFields = s.decodeDescriptor d) := by
  unfold State.decodeFields
  split
  · exact .inl ⟨_, rfl, by simp⟩
  · rename_i d hd
    split
    · exact .inl ⟨_, rfl, by simp⟩
    · rename_i h1
      split
      · exact .inl ⟨_, rfl, by simp⟩
      · rename_i h2
        split
        · exact .inl ⟨_, rfl, by simp⟩
        · rename_i h3
          split
          · exact .inl ⟨_, rfl, by simp⟩
          · rename_i h4
            exact .inr ⟨d, hd, by simpa using h1, by simpa using h2, by simpa using h3, by simpa using h4, rfl⟩

/-- An entry has 16 bytes (spec/10_state.md R45). -/
@[simp] theorem FoutEntry.bytes_length (e : FoutEntry) : e.bytes.length = 16 := by
  simp [FoutEntry.bytes, leBytes]

@[simp] theorem descriptorBytes_length (d : Descriptor) (body : List Byte) :
    (descriptorBytes d body).length = 16 * d.fields.length := by
  unfold descriptorBytes
  induction d.fields with
  | nil => rfl
  | cons f fs ih => simp only [List.flatMap_cons, List.length_append, ih, FoutEntry.bytes_length, List.length_cons]; omega

/-- Byte `k` of entry `i` of what FDEC writes. -/
theorem descriptorBytes_getElem? (d : Descriptor) (body : List Byte) (i k : Nat) (hk : k < 16) :
    (descriptorBytes d body)[16 * i + k]? = d.fields[i]?.bind fun f => (fieldEntry f body).bytes[k]? := by
  unfold descriptorBytes
  induction d.fields generalizing i with
  | nil => simp
  | cons f fs ih =>
    cases i with
    | zero => simp [List.getElem?_append, hk]
    | succ i =>
      have : ¬ 16 * (i + 1) + k < 16 := by omega
      have h2 : 16 * (i + 1) + k - 16 = 16 * i + k := by omega
      simp [List.getElem?_append, this, h2, ih]

end Sys2Proof.Machine
end

