-- ==== Sys2Proof/Laws/PerInstr.lean ====
section
/-! SUPPORT. One lemma per constructor of Instr: the word of an instruction is in its row of
spec/opcode_table.json. -/

namespace Sys2Proof

/-- The row of the table with a mnemonic. -/
def rowNamed (name : String) : Option TableRow := opcodeTable.find? fun r => r.mnemonic == name

/-- The word of an instruction matches the row that has the instruction's mnemonic. -/
def Laws.TableRow.Statement (i : Instr) : Prop :=
  ∃ r, rowNamed i.mnemonic = some r ∧ (encode i) &&& r.mask = r.pattern

/-- A masked word is the pattern when it is so bit by bit. -/
theorem and_eq_of_bits {w m p : Htw} (h : ∀ i, i < 32 → (w.getLsbD i && m.getLsbD i) = p.getLsbD i) :
    w &&& m = p := by
  apply BitVec.eq_of_getLsbD_eq
  intro i hi
  rw [BitVec.getLsbD_and]
  exact h i hi

theorem Laws.TableRow.idle (g : BitVec 30) : Laws.TableRow.Statement (.idle g) := by
  refine ⟨_, rfl, and_eq_of_bits fun i hi => ?_⟩
  simp only [encode, BitVec.getLsbD_setWidth]
  interval_cases i <;> simp

theorem Laws.TableRow.rd (a : Addr) : Laws.TableRow.Statement (.rd a) := by
  refine ⟨_, rfl, and_eq_of_bits fun i hi => ?_⟩
  simp only [encode, htwOf, BitVec.getLsbD_or, BitVec.getLsbD_shiftLeft, BitVec.getLsbD_setWidth]
  interval_cases i <;> simp

theorem Laws.TableRow.wr (a : Addr) (d : Byte) : Laws.TableRow.Statement (.wr a d) := by
  refine ⟨_, rfl, and_eq_of_bits fun i hi => ?_⟩
  simp only [encode, htwOf, BitVec.getLsbD_or, BitVec.getLsbD_shiftLeft, BitVec.getLsbD_setWidth]
  interval_cases i <;> simp

theorem Laws.TableRow.illcmd (c : Byte) : Laws.TableRow.Statement (.illcmd c) := by
  refine ⟨_, rfl, and_eq_of_bits fun i hi => ?_⟩
  simp only [encode, htwOf, BitVec.getLsbD_or, BitVec.getLsbD_shiftLeft, BitVec.getLsbD_setWidth]
  interval_cases i <;> simp

theorem Laws.TableRow.clr : Laws.TableRow.Statement .clr := ⟨_, rfl, rfl⟩

theorem Laws.TableRow.rxeof : Laws.TableRow.Statement .rxeof := ⟨_, rfl, rfl⟩

theorem Laws.TableRow.enc : Laws.TableRow.Statement .enc := ⟨_, rfl, rfl⟩

theorem Laws.TableRow.fx : Laws.TableRow.Statement .fx := ⟨_, rfl, rfl⟩

theorem Laws.TableRow.fdec : Laws.TableRow.Statement .fdec := ⟨_, rfl, rfl⟩

theorem Laws.TableRow.rxb (b : Byte) : Laws.TableRow.Statement (.rxb b) := by
  refine ⟨_, rfl, and_eq_of_bits fun i hi => ?_⟩
  simp only [encode, htwOf, BitVec.getLsbD_or, BitVec.getLsbD_shiftLeft, BitVec.getLsbD_setWidth]
  interval_cases i <;> simp

end Sys2Proof
end

