-- ==== Sys2Proof/Laws/Receiver.lean ====
section
/-! SUPPORT. Everything the receive step can do, case by case. -/

namespace Sys2Proof.Machine

/-- The count after a byte is stored. -/
theorem State.storeReceived_rxcnt_toNat (s : State) (b : Byte) (h : s.rxcnt.toNat < 260) :
    (s.storeReceived b).rxcnt.toNat = s.rxcnt.toNat + 1 := by
  simp only [State.storeReceived_rxcnt, BitVec.toNat_add, BitVec.toNat_ofNat]
  omega

/-- The buffers after a byte is stored. -/
theorem State.bufByte_storeReceived (s : State) (b : Byte) (x : Nat) :
    (s.storeReceived b).bufByte x = if x = rxbufAddr s.rxcnt.toNat then b else s.bufByte x :=
  State.bufByte_setBufByte s (rxbufAddr s.rxcnt.toNat) b x

/-- RXBUF after a byte is stored. -/
theorem State.rxbuf_storeReceived (s : State) (b : Byte) (i : Nat) :
    (s.storeReceived b).rxbuf i = if i = s.rxcnt.toNat then b else s.rxbuf i := by
  simp [State.rxbuf, State.bufByte_storeReceived, rxbufAddr]

/-- What a receive step can do when it answers a next state (spec/43_receiver.md R152). -/
theorem receiveByte_cases {b : Byte} {s t : State} (h : receiveByte b s = .next t) :
    ((s.rxState = .done ∨ s.rxState = .err) ∧ t = s.dropReceived) ∨
    ((s.rxState = .idle ∨ s.rxState = .hdr) ∧ s.rxcnt.toNat < 260 ∧ t = s.receiveHeaderByte b) ∨
    (s.rxState = .body ∧ s.rxcnt.toNat < 260 ∧ t = s.receiveBodyByte b) ∨
    (s.rxState = .ckb ∧ s.rxcnt.toNat < 260 ∧ t = s.receiveChecksumByte b) := by
  have hst : ∀ u, storingStep s u = .next t → s.rxcnt.toNat < 260 ∧ t = u := by
    intro u hu
    unfold storingStep at hu
    split at hu
    · exact ⟨by assumption, by cases hu; rfl⟩
    · cases hu
  unfold receiveByte at h
  split at h <;> rename_i hs
  · exact .inl ⟨.inl hs, by cases h; rfl⟩
  · exact .inl ⟨.inr hs, by cases h; rfl⟩
  · exact .inr (.inl ⟨.inl hs, hst _ h⟩)
  · exact .inr (.inl ⟨.inr hs, hst _ h⟩)
  · exact .inr (.inr (.inl ⟨hs, hst _ h⟩))
  · exact .inr (.inr (.inr ⟨hs, hst _ h⟩))

/-- The header verdict and the states it leads to (R152, R153). -/
theorem State.judgeHeader_cases (s : State) :
    (s.rxbuf 0 ≠ s.respMarker ∧ s.judgeHeader = s.rxFail .badAck) ∨
    (s.rxbuf 0 = s.respMarker ∧ s.rxbuf 3 ≠ headerChecksum (s.rxbuf 1) (s.rxbuf 2) ∧
      s.judgeHeader = s.rxFail .badHeaderChecksum) ∨
    (s.rxbuf 0 = s.respMarker ∧ s.rxbuf 3 = headerChecksum (s.rxbuf 1) (s.rxbuf 2) ∧
      s.judgeHeader =
        State.raise { s with rxsum := 0x00#8, rxState := if s.rxbuf 2 = 0x00#8 then .ckb else .body } .ok) := by
  unfold State.judgeHeader headerVerdict
  by_cases h0 : s.rxbuf 0 = s.respMarker
  · by_cases h3 : s.rxbuf 3 = headerChecksum (s.rxbuf 1) (s.rxbuf 2)
    · simp [h0, h3]
    · simp [h0, h3]
  · simp [h0]

/-- A header byte: one of the first three, or the fourth and its verdict (R152). -/
theorem State.receiveHeaderByte_cases (s : State) (b : Byte) (h : s.rxcnt.toNat < 260) :
    (s.rxcnt.toNat < 3 ∧ s.receiveHeaderByte b = State.raise { s.storeReceived b with rxState := .hdr } .ok) ∨
    (3 ≤ s.rxcnt.toNat ∧ s.receiveHeaderByte b = (s.storeReceived b).judgeHeader) := by
  have hc := s.storeReceived_rxcnt_toNat b h
  unfold State.receiveHeaderByte
  by_cases h4 : s.rxcnt.toNat < 3
  · exact .inl ⟨h4, if_pos (by omega)⟩
  · exact .inr ⟨by omega, if_neg (by omega)⟩

/-- The checksum byte: the frame is accepted or fails (R152). -/
theorem State.receiveChecksumByte_cases (s : State) (b : Byte) :
    (b = s.rxsum ∧ s.receiveChecksumByte b = State.raise { s.storeReceived b with rxState := .done } .ok) ∨
    (b ≠ s.rxsum ∧ s.receiveChecksumByte b = (s.storeReceived b).rxFail .badBodyChecksum) := by
  unfold State.receiveChecksumByte
  by_cases h : b = s.rxsum
  · exact .inl ⟨h, if_pos h⟩
  · exact .inr ⟨h, if_neg h⟩

end Sys2Proof.Machine
end

