-- ==== Sys2Proof/Laws/Step.lean ====
section
/-! SUPPORT. Everything a bus write, a command and a step can do, case by case, and sequences of transactions. -/

namespace Sys2Proof.Machine

/-- What ENC can do (spec/42_encoder.md R140). -/
theorem State.encode_cases (s : State) :
    (255 < s.eLen.toNat ∧ s.encode = s.encodeTooLarge) ∨
    (s.eLen.toNat ≤ 255 ∧ s.encode = s.encodeRequest s.eLen.toNat) := by
  unfold State.encode
  by_cases h : 255 < s.eLen.toNat
  · exact .inl ⟨h, if_pos h⟩
  · exact .inr ⟨by omega, if_neg h⟩

/-- What RXEOF can do (spec/43_receiver.md R154). -/
theorem State.endOfInput_cases (s : State) :
    (s.rxState ≠ .done ∧ s.rxState ≠ .err ∧ s.endOfInput = s.rxFail .truncatedFrame) ∨
    (s.rxState = .done ∧ s.endOfInput = s.raise .ok) ∨
    (s.rxState = .err ∧ s.endOfInput = s.raise s.rxec) := by
  unfold State.endOfInput
  cases h : s.rxState <;> simp

/-- What a bus write can do when it answers a next state (spec/20_memory.md R72). -/
theorem memWrite_cases {a : Addr} {v : Byte} {s t : State} (h : memWrite a v s = .next t) :
    (a = 0x0000#16 ∧ t = startCommand v s) ∨
    (a = 0x0008#16 ∧ receiveByte v s = .next t) ∨
    (∃ r, regionOf a = some r ∧ r.access = .rw ∧ t = s.storeLoc r.loc (a.toNat - r.base) a.toNat v) ∨
    t = s := by
  unfold memWrite at h
  split at h
  · exact .inr (.inr (.inr (by cases h; rfl)))
  · rename_i r hr
    obtain ⟨hm, h1, h2⟩ := regionOf_spec hr
    split at h
    · rename_i hc
      have : ∀ r ∈ addressMap, r.loc = .cmd → r.base = 0 ∧ r.size = 1 := by decide
      obtain ⟨hb, hs⟩ := this r hm hc
      exact .inl ⟨BitVec.eq_of_toNat_eq (by simp; omega), by cases h; rfl⟩
    · split at h
      · rename_i hc
        have : ∀ r ∈ addressMap, r.loc = .rxd → r.base = 8 ∧ r.size = 1 := by decide
        obtain ⟨hb, hs⟩ := this r hm hc
        exact .inr (.inl ⟨BitVec.eq_of_toNat_eq (by simp; omega), h⟩)
      · split at h
        · rename_i hrw
          exact .inr (.inr (.inl ⟨r, hr, hrw, by cases h; rfl⟩))
        · exact .inr (.inr (.inr (by cases h; rfl)))

/-- What a step can do when it answers a next state: hold on the idle bus, reset, or perform a transaction. -/
theorem step_cases {s t : State} (h : step s = .next t) :
    catalogWf s.catalog = true ∧
    ((s.pending = [] ∧ t = s) ∨
     (∃ rest, s.pending = .reset :: rest ∧ t = (s.withPending rest).applyReset) ∨
     (∃ w rest i, s.pending = .transaction w :: rest ∧ decode w = .ok i ∧
       exec i (s.withPending rest) = .next t)) := by
  by_cases hc : catalogWf s.catalog = true
  · refine ⟨hc, ?_⟩
    unfold step presented at h
    rw [if_pos hc] at h
    cases hp : s.pending with
    | nil =>
      rw [hp] at h
      exact .inl ⟨rfl, by cases h; rfl⟩
    | cons e rest =>
      rw [hp] at h
      cases e with
      | reset => exact .inr (.inl ⟨rest, rfl, by cases h; rfl⟩)
      | transaction w =>
        cases hd : decode w with
        | error e => simp [hd] at h
        | ok i => exact .inr (.inr ⟨w, rest, i, rfl, hd, by simpa [hd] using h⟩)
  · simp [step, presented, hc] at h

/-- A sequence of transactions in two parts (spec/20_memory.md R78). -/
theorem execAll_append (is js : List Instr) (s : State) :
    execAll (is ++ js) s =
      match execAll is s with
      | .next t => execAll js t
      | .fault r => .fault r
      | .refused r => .refused r := by
  induction is generalizing s with
  | nil => rfl
  | cons i is ih =>
    simp only [List.cons_append, execAll]
    cases exec i s <;> simp [ih]

end Sys2Proof.Machine
end

