-- ==== Sys2Proof/Tests/Slice0.lean ====
section
/-! SUPPORT. Tests: the well-formedness checks, words written out from the encoding tables of spec/30_encoding.md,
one step of each instruction against the vectors of spec/95_test_vectors.md, and for every statement with hypotheses
a witness that meets them. -/

open Sys2Proof Sys2Proof.Machine

/-! ### Helpers -/

/-- The state of a next outcome. -/
def nextOf (o : Host.Outcome State Fault Refusal) : Option State :=
  match o with
  | .next s => some s
  | .fault _ => none
  | .refused _ => none

/-- What `p` says of the state an instruction leads to; false where it stops. -/
def after (i : Instr) (s : State) (p : State → Bool) : Bool := ((nextOf (exec i s)).map p).getD false

/-- What `p` says of the state a sequence of instructions leads to. -/
def afterAll (is : List Instr) (s : State) (p : State → Bool) : Bool :=
  ((nextOf (execAll is s)).map p).getD false

/-- A word decodes to an instruction. -/
def decodesTo (w : Htw) (i : Instr) : Bool :=
  match decode w with
  | .ok j => i == j
  | .error _ => false

/-- A word is refused for a reason. -/
def refusedWith (w : Htw) (e : DecodeError) : Bool :=
  match decode w with
  | .ok _ => false
  | .error x => x == e

/-- An unsigned, unscaled field. -/
def plainField (off wid : Nat) : FieldSpec := ⟨off, wid, false, 1#32, 0, 0x00#8⟩

/-- BOARD_INFO, TESTVAR and EMPTY of CAT_T (spec/95_test_vectors.md part 2). -/
def boardInfo : Descriptor :=
  ⟨0x56#8, .fixed 0x12#8,
    [plainField 0 1, plainField 1 2, plainField 3 1, plainField 4 2, plainField 6 1, plainField 7 4]⟩

def testVar0 : FieldSpec := ⟨0, 2, true, 45#32, 11, 0x01#8⟩

def testVar : Descriptor := ⟨0x10#8, .anyLength, [testVar0, plainField 2 1]⟩

def emptyDescriptor : Descriptor := ⟨0x11#8, .fixed 0x00#8, []⟩

def catT : List Descriptor := [boardInfo, testVar, emptyDescriptor]

/-- A block configured with CAT_T and the default marker. -/
def blockT : State := { State.reset with catalog := catT }

/-- A block in an FSM state with the given received bytes and running sum. -/
def received (st : RxState) (bs : List Byte) (sum : Byte) : State :=
  { blockT with
    rxState := st, rxcnt := BitVec.ofNat 16 bs.length, rxsum := sum
    mem := Memory.setRange [] 0x0100 bs }

/-- The TESTVAR frame of RX-14. -/
def frameT : List Byte := [0x3E#8, 0x10#8, 0x03#8, 0x13#8, 0x87#8, 0xFF#8, 0x05#8, 0x8B#8]

/-- The empty-body frame of RX-02. -/
def frameE : List Byte := [0x3E#8, 0x11#8, 0x00#8, 0x11#8, 0x00#8]

def hdrT : State := received .hdr (frameT.take 3) 0x00#8
def bodyT : State := received .body (frameT.take 6) 0x86#8
def ckbT : State := received .ckb (frameT.take 7) 0x8B#8
def doneT : State := { received .done frameT 0x8B#8 with arg := 0x10#8 }
def doneE : State := { received .done frameE 0x00#8 with arg := 0x11#8 }
/-- FD-11: a body of one byte where EMPTY's length is fixed at 0. -/
def longE : State :=
  { received .done [0x3E#8, 0x11#8, 0x01#8, 0x12#8, 0x00#8, 0x00#8] 0x00#8 with arg := 0x11#8 }
/-- FD-09: a TESTVAR body of two bytes. -/
def shortT : State :=
  { received .done [0x3E#8, 0x10#8, 0x02#8, 0x12#8, 0x87#8, 0xFF#8, 0x86#8] 0x86#8 with arg := 0x10#8 }
def errT : State :=
  { received .err (frameT.take 7 ++ [0x8C#8]) 0x8B#8 with rxec := .badBodyChecksum, status := .badBodyChecksum }

/-! ### Well-formedness: an ill-formed term for each check (R96, R122) -/

theorem test_wf_wr_not_cmd : (Instr.wr 0x0000#16 0x01#8).wellFormed = false := by decide
theorem test_wf_wr_not_rxd : (Instr.wr 0x0008#16 0x01#8).wellFormed = false := by decide
theorem test_wf_illcmd_not_a_command :
    ([0x01#8, 0x02#8, 0x03#8, 0x04#8, 0x05#8].any fun c => (Instr.illcmd c).wellFormed) = false := by decide
theorem test_wf_illcmd_edges :
    (Instr.illcmd 0x00#8).wellFormed ∧ (Instr.illcmd 0x06#8).wellFormed ∧ (Instr.illcmd 0xFF#8).wellFormed := by
  decide

/-! ### Decoding: KIND, RSV, ADDR and DATA written out bit by bit from R90 -/

theorem test_decode_idle : decodesTo 0b00_111111_0001001000110100_01010110#32 (.idle 0x3F123456#30) := by decide
theorem test_decode_rd : decodesTo 0b10_000000_0000000000000010_00000000#32 (.rd 0x0002#16) := by decide
theorem test_decode_wr : decodesTo 0b01_000000_0000000000010000_01010110#32 (.wr 0x0010#16 0x56#8) := by decide
theorem test_decode_illcmd : decodesTo 0b01_000000_0000000000000000_00000110#32 (.illcmd 0x06#8) := by decide
theorem test_decode_clr : decodesTo 0b01_000000_0000000000000000_00000001#32 .clr := by decide
theorem test_decode_rxeof : decodesTo 0b01_000000_0000000000000000_00000010#32 .rxeof := by decide
theorem test_decode_enc : decodesTo 0b01_000000_0000000000000000_00000011#32 .enc := by decide
theorem test_decode_fx : decodesTo 0b01_000000_0000000000000000_00000100#32 .fx := by decide
theorem test_decode_fdec : decodesTo 0b01_000000_0000000000000000_00000101#32 .fdec := by decide
theorem test_decode_rxb : decodesTo 0b01_000000_0000000000001000_01010101#32 (.rxb 0x55#8) := by decide
/-- R91: KIND 11, RSV not 0 and a read with DATA not 0 are refused; RSV matters at each of its six bits. -/
theorem test_decode_refusals :
    refusedWith 0b11_000000_0000000000000000_00000000#32 .illegalKind ∧
    refusedWith 0b10_000000_0000000000000010_00000001#32 .readDataNotZero ∧
    ((List.range 6).all fun k => refusedWith (0x40000000#32 ||| (1#32 <<< (24 + k))) .reservedNotZero) := by
  decide
/-- The priority of CMD and RXD rows over WR (R91): 0x40000000 matches two rows, 0x40000003 three. -/
theorem test_most_specific_row :
    (mostSpecificRow 0x40000000#32).map TableRow.mnemonic = some "ILLCMD" ∧
    (mostSpecificRow 0x40000003#32).map TableRow.mnemonic = some "ENC" := by decide
/-- The ROM image of CAT_T's TESTVAR as spec/95_test_vectors.md part 2 gives its words. -/
theorem test_rom_testVar :
    romEncode [testVar] =
      [.descriptor 0x02010010#32, .field 0x0000002D0100BA00#64, .field 0x0000000100000102#64] := by decide
/-- Program P1's first words (spec/95_test_vectors.md part 4). -/
theorem test_asm_lines :
    (AsmLine.wr (.name .eOpcode 0) 0x56#8).words = [0x40001056#32] ∧
    (AsmLine.rd (.name .status 0)).words = [0x80000200#32] ∧
    (AsmLine.rd16 (.name .txlen 0)).words = [0x80001400#32, 0x80001500#32] := by decide

/-! ### One step of each instruction -/

/-- HA-16. -/
theorem test_step_idle :
    nextOf (step (blockT.withFetchWord 32 0x3F123456)) = some blockT := by decide
/-- HA-02: X_WID resets to 01. -/
theorem test_rd_xWid : after (.rd 0x0021#16) blockT fun t => t.reads == [0x01#8] := by decide
/-- R74: the high byte of RXCNT is 0x0007's; RX-14 leaves 8 in the low byte. -/
theorem test_rd_rxcnt :
    afterAll [.rd 0x0006#16, .rd 0x0007#16] doneT fun t => t.reads == [0x08#8, 0x00#8] := by decide
/-- HA-07 and HA-08. -/
theorem test_wr_razwi :
    afterAll [.wr 0x0023#16 0xFF#8, .wr 0x0022#16 0xFE#8] blockT fun t =>
      memRead 0x0023#16 t == 0x3F#8 && memRead 0x0022#16 t == 0x00#8 := by decide
/-- HA-10: the high byte of E_LEN alone. -/
theorem test_wr_eLen_high : after (.wr 0x0013#16 0x01#8) blockT fun t => t.eLen == 0x0100#16 := by decide
/-- HA-12. -/
theorem test_illcmd : nextOf (exec (.illcmd 0x00#8) doneT) = some { doneT with status := .illegalCommand } := by
  decide
/-- HA-15. -/
theorem test_clr :
    after .clr errT fun t =>
      t.rxstByte == 0x00#8 && t.rxecByte == 0x00#8 && t.rxcnt == 0x0000#16 && t.mem == errT.mem := by decide
/-- RX-15: an empty-body frame without its checksum byte is truncated. -/
theorem test_rxeof_ckb :
    after .rxeof (received .ckb (frameE.take 4) 0x00#8) fun t =>
      t.rxstByte == 0x05#8 && t.statusByte == 0x03#8 && t.rxecByte == 0x03#8 := by decide
/-- RX-03: after a failed frame RXEOF reports its code again. -/
theorem test_rxeof_err : after .rxeof { errT with status := .ok } fun t => t.statusByte == 0x06#8 := by decide
/-- EN-02: the header sum wraps to 00. -/
theorem test_enc :
    after .enc { blockT with eOpcode := 0xFF#8, eLen := 0x0001#16, mem := [(0x0300, 0x01#8)] } fun t =>
      t.bufBytes 0x0400 6 == [0x3E#8, 0xFF#8, 0x01#8, 0x00#8, 0x01#8, 0x01#8] && t.txlen == 0x0006#16 := by decide
/-- EN-08: BodyTooLarge leaves TXBUF and clears TXLEN. -/
theorem test_enc_too_large :
    after .enc { blockT with eLen := 0x0100#16, txlen := 0x0005#16, mem := [(0x0400, 0x3E#8)] } fun t =>
      t.statusByte == 0x02#8 && t.txlen == 0x0000#16 && t.mem == [(0x0400, 0x3E#8)] := by decide
/-- FX-21: signed, scaled, negative. -/
theorem test_fx :
    after .fx { doneT with xOff := 0x00#8, xWid := 0x02#8, xSgn := true, xMant := 45#32, xShift := 11#6 } fun t =>
      t.xRaw == 0xFFFFFF87#32 && t.xScaled == 0xFFFFFFFFFFFFEABB#64 && t.xRsh == 11#6 &&
        t.statusByte == 0x00#8 := by decide
/-- FX-30: BadFieldSpec is checked before NoFrame. -/
theorem test_fx_order : after .fx { blockT with xWid := 0x00#8 } fun t => t.statusByte == 0x0E#8 := by decide
/-- FD-08. -/
theorem test_fdec :
    after .fdec doneT fun t =>
      t.fcnt == 0x02#8 && t.bufBytes 0x1000 16 ==
        [0x01#8, 0x02#8, 0x01#8, 0x0B#8, 0x87#8, 0xFF#8, 0xFF#8, 0xFF#8,
         0xBB#8, 0xEA#8, 0xFF#8, 0xFF#8, 0xFF#8, 0xFF#8, 0xFF#8, 0xFF#8] := by decide
/-- FD-05: UnknownCommand is checked before NoFrame. -/
theorem test_fdec_order : after .fdec { blockT with arg := 0x57#8 } fun t => t.statusByte == 0x01#8 := by decide
/-- RX-10: the marker is judged at the fourth byte. -/
theorem test_rxb_header :
    after (.rxb 0x68#8) (received .hdr [0x3C#8, 0x56#8, 0x12#8] 0x00#8) fun t =>
      t.rxstByte == 0x05#8 && t.rxecByte == 0x04#8 && t.rxcnt == 0x0004#16 := by decide
/-- RX-25: a byte after a failure is dropped. -/
theorem test_rxb_err :
    after (.rxb 0x00#8) errT fun t =>
      t.statusByte == 0x0D#8 && t.rxstByte == 0x85#8 && t.rxecByte == 0x06#8 && t.rxcnt == errT.rxcnt := by decide

/-! ### Witnesses: words and steps -/

theorem witness_DecodeEncodeRoundTrip :
    ([.idle 0x3FFFFFFF#30, .rd 0xFFFF#16, .wr 0x0001#16 0xFF#8, .wr 0x0007#16 0x00#8, .wr 0x0009#16 0x00#8,
      .illcmd 0x00#8, .illcmd 0x06#8, .clr, .rxeof, .enc, .fx, .fdec, .rxb 0xFF#8] : List Instr).all
        Instr.wellFormed := by decide
theorem witness_EncodeDecodeRoundTrip : decode 0x40FFFF12#32 = .ok (.wr 0xFFFF#16 0x12#8) := by rfl
/-- A word for every clause, at the edges of the command codes. -/
theorem witness_DecodeClassifiesEveryWord :
    htwKind 0x3F123456#32 = 0b00#2 ∧
    (htwKind 0x40000005#32 = 0b01#2 ∧ htwRsv 0x40000005#32 = 0#6 ∧ htwAddr 0x40000005#32 = 0x0000#16 ∧
      htwData 0x40000001#32 = 0x01#8 ∧ htwData 0x40000002#32 = 0x02#8 ∧ htwData 0x40000003#32 = 0x03#8 ∧
      htwData 0x40000004#32 = 0x04#8 ∧ htwData 0x40000005#32 = 0x05#8 ∧
      0x06#8 ≤ htwData 0x40000006#32 ∧ htwData 0x40000000#32 = 0x00#8) ∧
    htwAddr 0x40000855#32 = 0x0008#16 ∧
    (htwAddr 0x40000900#32 ≠ 0x0000#16 ∧ htwAddr 0x40000900#32 ≠ 0x0008#16) ∧
    (htwKind 0x80FFFF00#32 = 0b10#2 ∧ htwRsv 0x80FFFF00#32 = 0#6 ∧ htwData 0x80FFFF00#32 = 0x00#8) ∧
    htwKind 0xC0000000#32 = 0b11#2 ∧ htwRsv 0x41000000#32 ≠ 0#6 ∧ htwData 0x80000201#32 ≠ 0x00#8 := by decide
theorem witness_decode_ok_and_error :
    decode 0x80FFFF00#32 = .ok (.rd 0xFFFF#16) ∧ decode 0x81000200#32 = .error .reservedNotZero := ⟨rfl, rfl⟩
theorem witness_AssembledWordsDecode :
    0x0001#16 ≠ 0x0000#16 ∧ 0x0001#16 ≠ 0x0008#16 ∧ 0x0009#16 ≠ 0x0008#16 := by decide
theorem witness_RomImageRoundTrip : catalogWf catT = true := by decide
theorem witness_StepPerformsDecodedTransaction :
    catalogWf (blockT.present 0x40000001#32).catalog = true ∧
    (blockT.present 0x40000001#32).pending = [.transaction 0x40000001#32] ∧
    decode 0x40000001#32 = .ok .clr := ⟨by decide, rfl, rfl⟩
theorem witness_StepRefusesUndecodableWord :
    catalogWf (blockT.present 0xC0000000#32).catalog = true ∧
    (blockT.present 0xC0000000#32).pending = [.transaction 0xC0000000#32] ∧
    decode 0xC0000000#32 = .error .illegalKind := ⟨by decide, rfl, rfl⟩
theorem witness_StepHoldsStateOnIdleBus : catalogWf blockT.catalog = true ∧ blockT.pending = [] := by decide
/-- CAT-02. -/
theorem witness_StepRefusesIllFormedCatalog :
    catalogWf { blockT with catalog := catT ++ [{ emptyDescriptor with opcode := 0x56#8 }] }.catalog = false := by
  decide
theorem witness_ResetEventResetsEveryRegister :
    catalogWf (doneT.withPending [.reset, .transaction 0x40000001#32]).catalog = true ∧
    (doneT.withPending [.reset, .transaction 0x40000001#32]).pending = [.reset, .transaction 0x40000001#32] := by
  decide
theorem witness_ConfiguredBlockStartsAtReset :
    catalogWf catT = true ∧ (0x00FF#16).toNat < 0x0100 ∧ 0x00FF#16 ≠ 0x0021#16 ∧ 0x00FF#16 ≠ 0x0024#16 ∧
    (0x0025#16).toNat < 0x0100 := by decide

/-! ### Witnesses: host access -/

theorem witness_IdleChangesNothing : htwKind 0x00000000#32 = 0b00#2 ∧ htwKind 0x3FFFFFFF#32 = 0b00#2 := by decide
theorem test_read_status_at_err : memRead 0x0003#16 errT = 0x05#8 ∧ memRead 0x0004#16 errT = 0x06#8 := by decide
/-- Both ends of every hole of R71 are unmapped and neither neighbour is (HA-04). -/
theorem witness_BusReadFollowsAddressMap :
    ((([0x0005, 0x0009, 0x000F, 0x0011, 0x0016, 0x001F, 0x002D, 0x002F, 0x0038, 0x003F, 0x0041, 0x00FF, 0x0204,
        0x02FF, 0x03FF, 0x0504, 0x0FFF, 0x1FF0, 0xFFFF] : List Nat).all fun a =>
        addressMap.all fun r => !r.covers a) = true) ∧
    ((([0x0004, 0x0006, 0x0008, 0x0010, 0x0012, 0x0015, 0x0020, 0x002C, 0x0030, 0x0037, 0x0040, 0x0100, 0x0203,
        0x0300, 0x03FE, 0x0400, 0x0503, 0x1000, 0x1FEF] : List Nat).all fun a =>
        addressMap.any fun r => r.covers a) = true) := by decide
theorem witness_unmapped_edges :
    UnmappedAddr (0x0009#16).toNat ∧ UnmappedAddr (0x00FF#16).toNat ∧ UnmappedAddr (0x03FF#16).toNat ∧
    UnmappedAddr (0x1FF0#16).toNat ∧ ¬ UnmappedAddr (0x1FEF#16).toNat ∧ ¬ UnmappedAddr (0x0203#16).toNat := by
  simp [UnmappedAddr]
/-- The edges of the writable addresses: EBUF's ends, X_SGN's and X_SHIFT's bits, an R register, a hole. -/
theorem witness_WriteStoresOnlyItsByte :
    writableBits (0x0300#16).toNat = some 0xFF#8 ∧ writableBits (0x03FE#16).toNat = some 0xFF#8 ∧
    writableBits (0x03FF#16).toNat = none ∧ writableBits (0x0022#16).toNat = some 0x01#8 ∧
    writableBits (0x0023#16).toNat = some 0x3F#8 ∧ writableBits (0x0027#16).toNat = some 0xFF#8 ∧
    writableBits (0x0028#16).toNat = none ∧ writableBits (0x0002#16).toNat = none ∧
    0x0300#16 ≠ 0x0000#16 ∧ 0x0300#16 ≠ 0x0008#16 := by decide
theorem witness_BusWritePerformsDecodedWrite :
    decode (htwOf 0b01#2 0x0000#16 0x03#8) = .ok .enc ∧ decode (htwOf 0b01#2 0x0008#16 0x03#8) = .ok (.rxb 0x03#8) ∧
    decode (htwOf 0b01#2 0x0001#16 0x03#8) = .ok (.wr 0x0001#16 0x03#8) := ⟨rfl, rfl, rfl⟩
theorem witness_IllegalCommandSetsOnlyStatus : 0x06#8 ≤ 0x06#8 ∧ 0x06#8 ≤ 0xFF#8 ∧ ¬ 0x06#8 ≤ 0x05#8 := by decide
theorem witness_SendLineBuildsRequest :
    catalogWf blockT.catalog = true ∧ ([] : List Byte).length ≤ 255 ∧
    (List.replicate 255 0xFF#8).length ≤ 255 := ⟨by decide, by decide, List.length_replicate.le⟩
theorem witness_SetFxLineSetsOperands : catalogWf blockT.catalog = true := by decide

/-! ### Witnesses: checksums and the encoder -/

theorem witness_ChecksumIsModularSum : [0x01#8, 0x02#8, 0x03#8].Perm [0x03#8, 0x02#8, 0x01#8] := by decide
/-- RX-14 accepted, and a byte of each kind to flip. -/
theorem witness_SingleBitFlipIsRejected :
    blockT.rxState = .idle ∧ blockT.rxcnt.toNat = 0 ∧
    (∃ t, execAll (receiveAll frameE) blockT = .next t ∧ t.rxState = .done ∧ t.rxcnt.toNat = frameE.length) ∧
    4 < frameE.length := ⟨rfl, rfl, ⟨_, rfl, rfl, rfl⟩, by decide⟩
theorem witness_EncodedFrameLayout :
    ([] : List Byte).length ≤ 255 ∧ (List.replicate 255 0x00#8).length ≤ 255 := ⟨by decide, List.length_replicate.le⟩
theorem witness_EncodeBuildsFrameOrFails :
    { blockT with eLen := 0x00FF#16 }.eLen.toNat ≤ 255 ∧ 255 < { blockT with eLen := 0x0100#16 }.eLen.toNat := by
  decide
theorem witness_EncodedFrameIsAcceptedByReceiver :
    (List.replicate 255 0x00#8).length ≤ 255 ∧ blockT.rxState = .idle ∧ blockT.rxcnt.toNat = 0 ∧
    blockT.respMarker = 0x3E#8 ∧ { blockT with respMarker := 0x3C#8 }.respMarker ≠ 0x3E#8 :=
  ⟨List.length_replicate.le, by decide⟩

/-! ### Witnesses: the receiver -/

theorem witness_ReceiveIsDroppedWhenClosed : doneT.rxState = .done ∧ errT.rxState = .err := by decide
/-- Every clause: the third and fourth header byte, the two failing headers, an empty and a longer body, the last
body byte, both checksum bytes, and the last index of RXBUF. -/
theorem witness_ReceiveStoresByteAndAdvances :
    (blockT.rxState = .idle ∧ blockT.rxcnt.toNat < 3) ∧
    ((received .hdr (frameT.take 2) 0x00#8).rxState = .hdr ∧ (received .hdr (frameT.take 2) 0x00#8).rxcnt.toNat < 3) ∧
    (hdrT.rxState = .hdr ∧ 3 ≤ hdrT.rxcnt.toNat ∧ hdrT.rxcnt.toNat < 260) ∧
    after (.rxb 0x12#8) hdrT (fun t => t.rxbuf 0 == t.respMarker && t.rxbuf 3 != ck8 [t.rxbuf 1, t.rxbuf 2]) ∧
    after (.rxb 0x13#8) { hdrT with respMarker := 0x3C#8 } (fun t => t.rxbuf 0 != t.respMarker) ∧
    after (.rxb 0x13#8) hdrT (fun t => t.rxbuf 0 == t.respMarker && t.rxbuf 3 == ck8 [t.rxbuf 1, t.rxbuf 2] &&
      t.rxState == .body) ∧
    after (.rxb 0x11#8) (received .hdr (frameE.take 3) 0x00#8) (fun t => t.rxState == .ckb) ∧
    (bodyT.rxState = .body ∧ bodyT.rxcnt.toNat + 1 = 4 + (bodyT.rxbuf 2).toNat) ∧
    (ckbT.rxState = .ckb ∧ ckbT.rxsum = 0x8B#8 ∧ ckbT.rxsum ≠ 0x8C#8) ∧
    { ckbT with rxcnt := 0x0103#16 }.rxcnt.toNat < 260 := by decide
theorem witness_ReceiveFaultsOnlyPastBuffer :
    260 ≤ { ckbT with rxcnt := 0x0104#16 }.rxcnt.toNat ∧ ckbT.rxState ≠ .done ∧ ckbT.rxState ≠ .err := by decide
theorem witness_EndOfInputVerdict :
    (blockT.rxState ≠ .done ∧ blockT.rxState ≠ .err) ∧ doneT.rxState = .done ∧ errT.rxState = .err := by decide
theorem witness_ReceiverAgreesWithDecodeFrame :
    blockT.rxState = .idle ∧ blockT.rxcnt.toNat = 0 ∧ blockT.rxx = false ∧
    (∃ f, decodeFrame blockT.respMarker (frameE ++ [0x00#8]) = .accept f 5) ∧
    decodeFrame blockT.respMarker [0x3C#8, 0x56#8] = .fail .truncatedFrame :=
  ⟨rfl, rfl, rfl, ⟨_, rfl⟩, rfl⟩
theorem witness_ReceiverNeverResynchronises :
    doneT.rxState = .done ∧ errT.rxState = .err ∧ Instr.fdec.wellFormed = true ∧ Instr.fdec ≠ .clr ∧
    (∃ t, exec .fdec doneT = .next t) := ⟨rfl, rfl, rfl, by decide, ⟨_, rfl⟩⟩
theorem witness_OnlyDroppedByteSetsRxx :
    (Instr.rxb 0x00#8).wellFormed = true ∧
    ∃ t, exec (.rxb 0x00#8) doneT = .next t ∧ doneT.rxx = false ∧ t.rxx = true := ⟨rfl, _, rfl, rfl, rfl⟩

/-! ### Witnesses: the catalog and field extraction -/

/-- CAT-01, CAT-08, and CAT-02 to CAT-07: each check fails by its name. -/
theorem witness_CatalogChecksAreTheRules :
    catalogFailure catT = none ∧
    catalogFailure [⟨0x10#8, .anyLength, [plainField 251 4]⟩] = none ∧
    catalogFailure [emptyDescriptor, emptyDescriptor] = some .opcodeUnique ∧
    catalogFailure [⟨0x10#8, .anyLength, [plainField 0 0]⟩] = some .width ∧
    catalogFailure [⟨0x10#8, .anyLength, [plainField 0 5]⟩] = some .width ∧
    catalogFailure [⟨0x10#8, .anyLength, [{ plainField 0 1 with shift := 64 }]⟩] = some .shift ∧
    catalogFailure [⟨0x10#8, .anyLength, [plainField 254 2]⟩] = some .inFrame ∧
    catalogFailure [⟨0x11#8, .fixed 0x00#8, [plainField 0 1]⟩] = some .inFixed ∧
    catalogFailure [⟨0x10#8, .anyLength, [plainField 1 3, plainField 3 1]⟩] = some .noOverlap := by decide
theorem witness_DisjointFieldsAreAtMost255 :
    (∀ f ∈ [plainField 0 1, plainField 251 4], 1 ≤ f.wid ∧ f.off + f.wid ≤ 255) ∧
    pairwiseHolds fieldsDisjoint [plainField 0 1, plainField 251 4] = true := by decide
theorem witness_LookupFindsTheDescriptor :
    catalogWf catT = true ∧ lookup catT 0x10#8 = some testVar ∧ lookup catT 0x57#8 = none := by decide
theorem witness_FieldBitsLittleEndian :
    14 + 4 ≤ (List.replicate 18 0x00#8).length ∧
    fieldBits [0x1F#8, 0x87#8, 0x09#8] 1 2 = 2439 := by decide
/-- Each width at its largest value, and both sides of the sign bit. -/
theorem witness_RawValueTwosComplement :
    (0xFF < 2 ^ (8 * 1) ∧ 2 ^ (8 * 1 - 1) ≤ 0x80 ∧ 0x7F < 2 ^ (8 * 1 - 1)) ∧
    (0xFFFFFFFF < 2 ^ (8 * 4) ∧ 2 ^ (8 * 4 - 1) ≤ 0x80000000 ∧ 0x7FFFFFFF < 2 ^ (8 * 4 - 1)) := by decide
theorem witness_ScaledProductIsExact : 1 ≤ 4 ∧ 4 ≤ 4 ∧ 0xFFFFFFFF < 2 ^ (8 * 4) := by decide
/-- Widths 0, 1, 4 and 5, no frame, a field that ends at L and one that ends at L + 1. -/
theorem witness_ExtractFieldResult :
    { doneT with xWid := 0x00#8 }.xWid.toNat < 1 ∧ 4 < { doneT with xWid := 0x05#8 }.xWid.toNat ∧
    (1 ≤ blockT.xWid.toNat ∧ blockT.xWid.toNat ≤ 4 ∧ blockT.rxState ≠ .done) ∧
    (doneT.rxState = .done ∧ (doneT.rxbuf 2).toNat = 3) ∧
    { doneT with xOff := 0x02#8, xWid := 0x01#8 }.xOff.toNat + { doneT with xWid := 0x01#8 }.xWid.toNat ≤ 3 ∧
    { doneT with xOff := 0x03#8, xWid := 0x01#8 }.xOff.toNat + { doneT with xWid := 0x01#8 }.xWid.toNat > 3 ∧
    { doneT with xWid := 0x04#8 }.xWid.toNat ≤ 4 := by decide
/-- Every clause of FDEC: FD-02, FD-04, FD-13, FD-11, FD-09 and FD-08. -/
theorem witness_DecodeFieldsResult :
    lookup catT 0x57#8 = none ∧
    (lookup doneT.catalog doneT.arg = some testVar ∧ blockT.rxState ≠ .done) ∧
    (doneT.rxState = .done ∧ doneT.rxbuf 1 = doneT.arg ∧ doneT.rxbuf 1 ≠ { doneT with arg := 0x56#8 }.arg) ∧
    (lookup longE.catalog longE.arg = some emptyDescriptor ∧ emptyDescriptor.fixed = .fixed 0x00#8 ∧
      longE.rxState = .done ∧ longE.rxbuf 1 = longE.arg ∧ longE.rxbuf 2 ≠ 0x00#8) ∧
    (lookup shortT.catalog shortT.arg = some testVar ∧ shortT.rxState = .done ∧ shortT.rxbuf 1 = shortT.arg ∧
      testVar.fixed = .anyLength ∧ ∃ f ∈ testVar.fields, f.off + f.wid > (shortT.rxbuf 2).toNat) ∧
    (catalogWf doneT.catalog = true ∧ (doneT.rxbuf 2).toNat = 3 ∧ ∀ f ∈ testVar.fields, f.off + f.wid ≤ 3) := by
  decide
theorem witness_FoutEntryReadsAsEntry :
    catalogWf doneT.catalog = true ∧ lookup doneT.catalog doneT.arg = some testVar ∧
    testVar.fields[0]? = some testVar0 ∧ after .fdec doneT (fun t => t.status == .ok) := by decide
theorem witness_FixedLengthNeverOutOfRange :
    catalogWf doneE.catalog = true ∧ lookup doneE.catalog doneE.arg = some emptyDescriptor ∧
    emptyDescriptor.fixed = .fixed 0x00#8 ∧ after .fdec doneE (fun t => t.status == .ok) := by decide
/-- FD-15 and FX-29: a WR and the first command itself stand between the two. -/
theorem witness_FieldDecodingIsIdempotent :
    (∀ i ∈ [Instr.fdec, .fx, .wr 0x0300#16 0x05#8],
      i.wellFormed = true ∧ i ≠ .clr ∧ ∀ b, i ≠ .rxb b) ∧
    (afterAll [.fdec, .fx, .wr 0x0300#16 0x05#8] doneT fun t => t.arg == doneT.arg && t.xOff == doneT.xOff &&
      t.xWid == doneT.xWid && t.xSgn == doneT.xSgn && t.xMant == doneT.xMant && t.xShift == doneT.xShift &&
      after .fdec t (fun u => u.status == .ok) && after .fx t (fun u => u.status == .ok)) := by
  refine ⟨?_, by decide⟩
  intro i hi
  simp only [List.mem_cons, List.not_mem_nil, or_false] at hi
  rcases hi with rfl | rfl | rfl <;> exact ⟨rfl, by decide, fun b => by simp⟩
/-- The field of FX-02 and FX-21 with the least value of its range. -/
theorem witness_FieldRoundTripIsExact :
    catalogWf catT = true ∧ testVar ∈ catT ∧ testVar0 ∈ testVar.fields ∧
    testVar0.off + testVar0.wid ≤ [0x00#8, 0x80#8].length ∧
    (if testVar0.sgn = true then -(2 ^ (8 * testVar0.wid - 1) : Int) ≤ -32768 ∧
        (-32768 : Int) < 2 ^ (8 * testVar0.wid - 1) else False) ∧
    (∀ k, k < testVar0.wid →
      [0x00#8, 0x80#8][testVar0.off + k]? = some ((BitVec.ofInt 32 (-32768)).extractLsb' (8 * k) 8)) := by decide

/-! ### Witnesses: whole-machine rules -/

/-- A block whose catalog is CAT_T meets the invariant when its receiver and its memory do. -/
theorem inv_of_parts {s : State} (hc : catalogWf s.catalog = true) (hr : ReceiverInv s)
    (hn : s.rxcnt.toNat ≤ 260) (hx : s.rxx = false) (ht : s.txlen.toNat = 0) (hs : s.status.reserved = false)
    (hm : Memory.wf s.mem = true) (hb : ∀ c ∈ s.mem, isBufferAddr c.1 = true)
    (hw : ∀ i, i < s.rxcnt.toNat → (Memory.find? s.mem (0x0100 + i)).isSome = true) (hf : s.fcnt.toNat = 0) :
    Inv s where
  catalog_wf := hc
  receiver := hr
  rxcnt_le := hn
  rxx_closed := by simp [hx]
  txlen_range := .inl ht
  status_possible := hs
  mem_wf := hm
  mem_in_buffers := hb
  rxbuf_written := hw
  txbuf_written := by rw [ht]; exact fun i h => absurd h (Nat.not_lt_zero i)
  fout_written := by rw [hf]; exact fun i h => absurd h (Nat.not_lt_zero i)

theorem witness_ResetMeetsInvariant : ∃ t, configure 0x3C#8 catT = .ok t := ⟨_, rfl⟩
theorem witness_inv_idle : Inv blockT :=
  inv_of_parts (by decide) ⟨rfl, rfl, rfl⟩ (by decide) rfl rfl rfl rfl (by decide) (by decide) rfl
theorem witness_inv_hdr : Inv hdrT :=
  inv_of_parts (by decide) ⟨by decide, by decide, rfl⟩ (by decide) rfl rfl rfl (by decide) (by decide) (by decide) rfl
theorem witness_inv_body : Inv bodyT :=
  inv_of_parts (by decide)
    ⟨⟨by decide, by decide⟩, by decide, by decide, by decide, by decide, rfl⟩
    (by decide) rfl rfl rfl (by decide) (by decide) (by decide) rfl
theorem witness_inv_ckb : Inv ckbT :=
  inv_of_parts (by decide) ⟨⟨by decide, by decide⟩, by decide, by decide, rfl⟩
    (by decide) rfl rfl rfl (by decide) (by decide) (by decide) rfl
theorem witness_inv_done : Inv doneT :=
  inv_of_parts (by decide) ⟨⟨by decide, by decide⟩, by decide, by decide, by decide, rfl⟩
    (by decide) rfl rfl rfl (by decide) (by decide) (by decide) rfl
theorem witness_inv_err : Inv errT :=
  inv_of_parts (by decide) (.inr (.inr (.inr rfl))) (by decide) rfl rfl rfl (by decide) (by decide) (by decide) rfl

/-- A state that meets the invariant, with a step that reaches DONE. -/
theorem witness_StepKeepsInvariant :
    Inv (ckbT.present 0x4000088B#32) ∧
    ∃ t, step (ckbT.present 0x4000088B#32) = .next t ∧ t.rxState = .done :=
  ⟨inv_of_parts (by decide) ⟨⟨by decide, by decide⟩, by decide, by decide, rfl⟩
    (by decide) rfl rfl rfl (by decide) (by decide) (by decide) rfl, _, rfl, by decide⟩
theorem witness_InvariantRulesOutFaults : Inv ckbT ∧ ckbT.rxState ≠ .done := ⟨witness_inv_ckb, by decide⟩
theorem witness_ConfigurationNeverChanges :
    ∃ t, step (doneT.withPending [.reset]) = .next t ∧ t.catalog = catT := ⟨_, rfl, rfl⟩
theorem witness_ReservedCodesAreNeverWritten :
    { blockT with status := StatusCode.linkError }.rxec.reserved = false ∧
    ∃ t, step { blockT with status := StatusCode.linkError } = .next t ∧ t.status.reserved = true :=
  ⟨rfl, _, rfl, rfl⟩
theorem witness_OnlyWriteChangesOperands :
    (∀ a d, Instr.fdec ≠ .wr a d) ∧ ∃ t, exec .fdec doneT = .next t := ⟨fun _ _ => by simp, _, rfl⟩
/-- RXB writes RXBUF[RXCNT] and raises RXCNT, CLR clears it, WR is none of the named writers. -/
theorem witness_ResultsHaveTheirWriters :
    (Instr.wr 0x0300#16 0x01#8).wellFormed = true ∧ (∃ t, exec (.wr 0x0300#16 0x01#8) doneT = .next t) ∧
    after (.rxb 0x13#8) hdrT (fun t => t.rxcnt != hdrT.rxcnt && hdrT.rxcnt.toNat == 3 && t.rxbuf 3 == 0x13#8) ∧
    after .clr doneT (fun t => t.rxcnt != doneT.rxcnt) := ⟨rfl, ⟨_, rfl⟩, by decide, by decide⟩
theorem witness_StatusKeepsUnlessCommand :
    Instr.rxeof.wellFormed = true ∧ (Instr.wr 0x0001#16 0x10#8).wellFormed = true ∧
    (∃ t, exec .rxeof errT = .next t) ∧ ∃ t, exec (.wr 0x0001#16 0x10#8) errT = .next t :=
  ⟨rfl, by decide, ⟨_, rfl⟩, _, rfl⟩
theorem witness_UnwrittenBytesDoNotMatter :
    Inv doneT ∧ (∃ t, exec .fx doneT = .next t) ∧ ∃ t, exec .fdec doneT = .next t :=
  ⟨witness_inv_done, ⟨_, rfl⟩, _, rfl⟩
end

section
/-! SUPPORT. Everything a transaction can do, case by case, and what each case leaves unchanged: the writers of the
registers and of the buffer bytes (spec/10_state.md). -/

namespace Sys2Proof.Machine

/-! ### What a host write to an R/W location leaves unchanged (spec/40_host_access.md R122) -/

section
variable (s : State) (l : Loc) (k a : Nat) (v : Byte)

@[simp] theorem State.storeLoc_status : (s.storeLoc l k a v).status = s.status := by cases l <;> rfl
@[simp] theorem State.storeLoc_rxState : (s.storeLoc l k a v).rxState = s.rxState := by cases l <;> rfl
@[simp] theorem State.storeLoc_rxx : (s.storeLoc l k a v).rxx = s.rxx := by cases l <;> rfl
@[simp] theorem State.storeLoc_rxec : (s.storeLoc l k a v).rxec = s.rxec := by cases l <;> rfl
@[simp] theorem State.storeLoc_rxcnt : (s.storeLoc l k a v).rxcnt = s.rxcnt := by cases l <;> rfl
@[simp] theorem State.storeLoc_rxsum : (s.storeLoc l k a v).rxsum = s.rxsum := by cases l <;> rfl
@[simp] theorem State.storeLoc_txlen : (s.storeLoc l k a v).txlen = s.txlen := by cases l <;> rfl
@[simp] theorem State.storeLoc_xRaw : (s.storeLoc l k a v).xRaw = s.xRaw := by cases l <;> rfl
@[simp] theorem State.storeLoc_xRsh : (s.storeLoc l k a v).xRsh = s.xRsh := by cases l <;> rfl
@[simp] theorem State.storeLoc_xScaled : (s.storeLoc l k a v).xScaled = s.xScaled := by cases l <;> rfl
@[simp] theorem State.storeLoc_fcnt : (s.storeLoc l k a v).fcnt = s.fcnt := by cases l <;> rfl
@[simp] theorem State.storeLoc_respMarker : (s.storeLoc l k a v).respMarker = s.respMarker := by cases l <;> rfl
@[simp] theorem State.storeLoc_catalog : (s.storeLoc l k a v).catalog = s.catalog := by cases l <;> rfl

/-- A host write changes a buffer byte only where it stores into EBUF. -/
theorem State.bufByte_storeLoc (x : Nat) :
    (s.storeLoc l k a v).bufByte x = if l = .ebuf ∧ x = a then v else s.bufByte x := by
  cases l
  case ebuf => simp [State.storeLoc]
  all_goals rfl

end

/-- Only EBUF is a buffer that the host writes (spec/20_memory.md R71). -/
theorem ebuf_addr_of_region {a : Addr} {r : Region} (hr : regionOf a = some r) (hl : r.loc = .ebuf) :
    ebufAddr 0 ≤ a.toNat ∧ a.toNat < ebufAddr 255 := by
  have hrow : ∀ r ∈ addressMap, r.loc = .ebuf → r.base = ebufAddr 0 ∧ r.base + r.size = ebufAddr 255 := by decide
  obtain ⟨hm, h1, h2⟩ := regionOf_spec hr
  obtain ⟨hb, he⟩ := hrow r hm hl
  omega

/-! ### The receive step that stores its byte (spec/43_receiver.md R152) -/

/-- A byte stored, with the FSM state, RXEC, RXSUM and STATUS that the verdict on it gives. -/
def State.receiveWith (s : State) (b : Byte) (q : RxState) (c : StatusCode) (sum : Byte) (e : StatusCode) : State :=
  { s.storeReceived b with rxState := q, rxec := c, rxsum := sum, status := e }

/-- The verdict on a stored byte: the FSM state, RXEC, RXSUM and STATUS it gives (R152, R153). -/
inductive ReceiveVerdict (s : State) (b : Byte) : RxState → StatusCode → Byte → StatusCode → Prop
  | header (hs : s.rxState = .idle ∨ s.rxState = .hdr) (hn : s.rxcnt.toNat < 3) :
      ReceiveVerdict s b .hdr s.rxec s.rxsum .ok
  | badHeader (hs : s.rxState = .idle ∨ s.rxState = .hdr) (e : StatusCode)
      (he : e = .badAck ∨ e = .badHeaderChecksum) : ReceiveVerdict s b .err e s.rxsum e
  | goodHeader (hs : s.rxState = .idle ∨ s.rxState = .hdr) (hn : 3 ≤ s.rxcnt.toNat)
      (hv : HeaderVerified (s.storeReceived b)) :
      ReceiveVerdict s b (if (s.storeReceived b).rxbuf 2 = 0x00#8 then .ckb else .body) s.rxec 0x00#8 .ok
  | body (hs : s.rxState = .body) :
      ReceiveVerdict s b
        (if (s.storeReceived b).rxcnt.toNat = 4 + (s.storeReceived b).frameLength then .ckb else .body)
        s.rxec (s.rxsum + b) .ok
  | accept (hs : s.rxState = .ckb) (hb : b = s.rxsum) : ReceiveVerdict s b .done s.rxec s.rxsum .ok
  | badBody (hs : s.rxState = .ckb) : ReceiveVerdict s b .err .badBodyChecksum s.rxsum .badBodyChecksum

/-- A verdict is given only while the FSM is open. -/
theorem ReceiveVerdict.rxState_open {s : State} {b sum : Byte} {q : RxState} {c e : StatusCode}
    (h : ReceiveVerdict s b q c sum e) : s.rxState ≠ .done ∧ s.rxState ≠ .err := by
  cases h with
  | header hs | badHeader hs | goodHeader hs => rcases hs with hs | hs <;> simp [hs]
  | body hs | accept hs | badBody hs => simp [hs]

/-- A verdict never sets a reserved code. -/
theorem ReceiveVerdict.status_possible {s : State} {b sum : Byte} {q : RxState} {c e : StatusCode}
    (h : ReceiveVerdict s b q c sum e) : e.reserved = false := by
  cases h with
  | badHeader _ e he => rcases he with rfl | rfl <;> rfl
  | header | goodHeader | body | accept | badBody => rfl

/-- A header byte is stored with a verdict. -/
theorem State.receiveHeaderByte_verdict {s : State} (hs : s.rxState = .idle ∨ s.rxState = .hdr)
    (hn : s.rxcnt.toNat < 260) (b : Byte) :
    ∃ q c sum e, ReceiveVerdict s b q c sum e ∧ s.receiveHeaderByte b = s.receiveWith b q c sum e := by
  rcases s.receiveHeaderByte_cases b hn with ⟨h3, ht⟩ | ⟨h3, ht⟩
  · exact ⟨_, _, _, _, .header hs h3, ht⟩
  · rcases (s.storeReceived b).judgeHeader_cases with ⟨-, hj⟩ | ⟨-, -, hj⟩ | ⟨h0, hck, hj⟩
    · exact ⟨_, _, _, _, .badHeader hs .badAck (.inl rfl), ht.trans hj⟩
    · exact ⟨_, _, _, _, .badHeader hs .badHeaderChecksum (.inr rfl), ht.trans hj⟩
    · exact ⟨_, _, _, _, .goodHeader hs h3 ⟨h0, hck⟩, ht.trans hj⟩

/-- A checksum byte is stored with a verdict. -/
theorem State.receiveChecksumByte_verdict {s : State} (hs : s.rxState = .ckb) (b : Byte) :
    ∃ q c sum e, ReceiveVerdict s b q c sum e ∧ s.receiveChecksumByte b = s.receiveWith b q c sum e := by
  rcases s.receiveChecksumByte_cases b with ⟨hb, ht⟩ | ⟨-, ht⟩
  · exact ⟨_, _, _, _, .accept hs hb, ht⟩
  · exact ⟨_, _, _, _, .badBody hs, ht⟩

/-! ### Every effect of a transaction -/

/-- What a transaction does when it answers a next state: one constructor per outcome that a rule names. -/
inductive Effect (s : State) : Instr → State → Prop
  | idle (g : BitVec 30) : Effect s (.idle g) s
  | read (a : Addr) : Effect s (.rd a) (s.giveRead (memRead a s))
  | writeIgnored (a : Addr) (d : Byte) : Effect s (.wr a d) s
  | write (a : Addr) (d : Byte) (l : Loc) (k : Nat)
      (hl : l = .ebuf → ebufAddr 0 ≤ a.toNat ∧ a.toNat < ebufAddr 255) :
      Effect s (.wr a d) (s.storeLoc l k a.toNat d)
  | illegalCommand (c : Byte) : Effect s (.illcmd c) (s.raise .illegalCommand)
  | clear : Effect s .clr s.clear
  | truncate (h1 : s.rxState ≠ .done) (h2 : s.rxState ≠ .err) : Effect s .rxeof (s.rxFail .truncatedFrame)
  | endDone (hs : s.rxState = .done) : Effect s .rxeof (s.raise .ok)
  | endErr (hs : s.rxState = .err) : Effect s .rxeof (s.raise s.rxec)
  | encodeTooLarge : Effect s .enc s.encodeTooLarge
  | encodeRequest (hn : s.eLen.toNat ≤ 255) : Effect s .enc (s.encodeRequest s.eLen.toNat)
  | extractFail (e : StatusCode) (he : e.reserved = false) : Effect s .fx (s.raise e)
  | extractField (hs : s.rxState = .done) : Effect s .fx s.extractField
  | decodeFail (e : StatusCode) (he : e.reserved = false) : Effect s .fdec (s.decodeFail e)
  | decodeDescriptor (d : Descriptor) (hd : lookup s.catalog s.arg = some d) (hs : s.rxState = .done) :
      Effect s .fdec (s.decodeDescriptor d)
  | drop (b : Byte) (hs : s.rxState = .done ∨ s.rxState = .err) : Effect s (.rxb b) s.dropReceived
  | receive (b : Byte) (q : RxState) (c : StatusCode) (sum : Byte) (e : StatusCode)
      (hn : s.rxcnt.toNat < 260) (hv : ReceiveVerdict s b q c sum e) :
      Effect s (.rxb b) (s.receiveWith b q c sum e)

theorem memWrite_effect {a : Addr} {d : Byte} {s t : State} (ha : wellFormedWrite a = true)
    (h : memWrite a d s = .next t) : Effect s (.wr a d) t := by
  simp only [wellFormedWrite, Bool.and_eq_true, bne_iff_ne, ne_eq] at ha
  rcases memWrite_cases h with ⟨h0, -⟩ | ⟨h8, -⟩ | ⟨r, hr, -, rfl⟩ | rfl
  · exact absurd h0 ha.1
  · exact absurd h8 ha.2
  · exact .write a d _ _ (ebuf_addr_of_region hr)
  · exact .writeIgnored a d

theorem endOfInput_effect (s : State) : Effect s .rxeof s.endOfInput := by
  rcases s.endOfInput_cases with ⟨h1, h2, ht⟩ | ⟨hs, ht⟩ | ⟨hs, ht⟩ <;> rw [ht]
  · exact .truncate h1 h2
  · exact .endDone hs
  · exact .endErr hs

theorem encode_effect (s : State) : Effect s .enc s.encode := by
  rcases s.encode_cases with ⟨-, ht⟩ | ⟨hn, ht⟩ <;> rw [ht]
  · exact .encodeTooLarge
  · exact .encodeRequest hn

theorem fieldExtract_effect (s : State) : Effect s .fx s.fieldExtract := by
  rcases s.fieldExtract_cases with ⟨-, ht⟩ | ⟨-, -, ht⟩ | ⟨-, -, -, ht⟩ | ⟨-, hs, -, ht⟩ <;> rw [ht]
  · exact .extractFail _ rfl
  · exact .extractFail _ rfl
  · exact .extractFail _ rfl
  · exact .extractField hs

theorem decodeFields_effect (s : State) : Effect s .fdec s.decodeFields := by
  rcases s.decodeFields_cases with ⟨e, ht, he⟩ | ⟨d, hd, hs, -, -, -, ht⟩ <;> rw [ht]
  · exact .decodeFail e (by rcases he with rfl | rfl | rfl | rfl | rfl <;> rfl)
  · exact .decodeDescriptor d hd hs

theorem receiveByte_effect {b : Byte} {s t : State} (h : receiveByte b s = .next t) : Effect s (.rxb b) t := by
  rcases receiveByte_cases h with ⟨hs, rfl⟩ | ⟨hs, hn, rfl⟩ | ⟨hs, hn, rfl⟩ | ⟨hs, hn, rfl⟩
  · exact .drop b hs
  · obtain ⟨q, c, sum, e, hv, ht⟩ := s.receiveHeaderByte_verdict hs hn b
    exact ht ▸ .receive b q c sum e hn hv
  · exact .receive b _ _ _ _ hn (.body hs)
  · obtain ⟨q, c, sum, e, hv, ht⟩ := s.receiveChecksumByte_verdict hs b
    exact ht ▸ .receive b q c sum e hn hv

/-- Every next state of a transaction is one of its effects; a WR must not be one to CMD or RXD (R122). -/
theorem exec_effect {i : Instr} {s t : State} (hw : ∀ a d, i = .wr a d → wellFormedWrite a = true)
    (h : exec i s = .next t) : Effect s i t := by
  cases i with
  | idle g => obtain rfl := Host.Outcome.next.inj h; exact .idle g
  | rd a => obtain rfl := Host.Outcome.next.inj h; exact .read a
  | wr a d => exact memWrite_effect (hw a d rfl) h
  | illcmd c => obtain rfl := Host.Outcome.next.inj h; exact .illegalCommand c
  | clr => obtain rfl := Host.Outcome.next.inj h; exact .clear
  | rxeof => obtain rfl := Host.Outcome.next.inj h; exact endOfInput_effect s
  | enc => obtain rfl := Host.Outcome.next.inj h; exact encode_effect s
  | fx => obtain rfl := Host.Outcome.next.inj h; exact fieldExtract_effect s
  | fdec => obtain rfl := Host.Outcome.next.inj h; exact decodeFields_effect s
  | rxb b => exact receiveByte_effect h

theorem exec_effect_of_wellFormed {i : Instr} {s t : State} (hi : i.wellFormed = true)
    (h : exec i s = .next t) : Effect s i t :=
  exec_effect (fun _ _ hw => by subst hw; exact hi) h

/-- The decoder gives well-formed instructions only (spec/30_encoding.md R91, R96). -/
theorem wellFormed_of_decode {w : Htw} {i : Instr} (h : decode w = .ok i) : i.wellFormed = true := by
  rcases decode_cases w with ⟨-, hd⟩ | ⟨-, -, hd⟩ | ⟨-, -, -, hd⟩ | ⟨-, hd⟩ | ⟨-, -, hd⟩ | ⟨-, -, -, hd⟩ <;>
    rw [hd] at h <;> cases h
  · rfl
  · exact (encode_decodeWrite _ _).1
  · rfl

/-- Every next state of a step: the same state on the idle bus, the reset state, or an effect of a transaction. -/
theorem step_effect {s t : State} (h : step s = .next t) :
    t = s ∨ (∃ rest, t = (s.withPending rest).applyReset) ∨ ∃ rest i, Effect (s.withPending rest) i t := by
  obtain ⟨-, ⟨-, rfl⟩ | ⟨rest, -, rfl⟩ | ⟨w, rest, i, -, hd, he⟩⟩ := step_cases h
  · exact .inl rfl
  · exact .inr (.inl ⟨rest, rfl⟩)
  · exact .inr (.inr ⟨rest, i, exec_effect_of_wellFormed (wellFormed_of_decode hd) he⟩)

end Sys2Proof.Machine
end

section
/-! SUPPORT. The writers of each register and buffer byte (spec/10_state.md), and the statements about them. -/

open Sys2Proof Sys2Proof.Machine

namespace Sys2Proof.Machine

/-! ### The writers of the registers -/

namespace Effect

variable {s t : State} {i : Instr}

/-- No transaction writes the configuration (spec/10_state.md R47). -/
theorem configuration_eq (h : Effect s i t) : t.catalog = s.catalog ∧ t.respMarker = s.respMarker := by
  cases h <;> simp [State.receiveWith]

/-- Only WR writes a host-writable operand register (R22). -/
theorem operands_eq (h : Effect s i t) (hi : ∀ a d, i ≠ .wr a d) :
    t.arg = s.arg ∧ t.eOpcode = s.eOpcode ∧ t.eLen = s.eLen ∧ t.xOff = s.xOff ∧ t.xWid = s.xWid ∧
      t.xSgn = s.xSgn ∧ t.xShift = s.xShift ∧ t.xMant = s.xMant := by
  cases h with
  | writeIgnored a d | write a d => exact absurd rfl (hi a d)
  | _ => simp [State.receiveWith]

/-- Only FX writes its result registers (R38 to R40). -/
theorem fieldResults_eq (h : Effect s i t) (hi : i ≠ .fx) :
    t.xRaw = s.xRaw ∧ t.xScaled = s.xScaled ∧ t.xRsh = s.xRsh := by
  cases h with
  | extractFail | extractField => exact absurd rfl hi
  | _ => simp [State.receiveWith]

/-- Only ENC writes TXLEN (R32). -/
theorem txlen_eq (h : Effect s i t) (hi : i ≠ .enc) : t.txlen = s.txlen := by
  cases h with
  | encodeTooLarge | encodeRequest => exact absurd rfl hi
  | _ => simp [State.receiveWith]

/-- Only FDEC and CLR write FCNT (R41). -/
theorem fcnt_eq (h : Effect s i t) (h1 : i ≠ .fdec) (h2 : i ≠ .clr) : t.fcnt = s.fcnt := by
  cases h with
  | decodeFail | decodeDescriptor => exact absurd rfl h1
  | clear => exact absurd rfl h2
  | _ => simp [State.receiveWith]

/-- Only RXB, RXEOF and CLR write RXST and RXEC (R26, R27). -/
theorem receiverStatus_eq (h : Effect s i t) (h1 : ∀ b, i ≠ .rxb b) (h2 : i ≠ .rxeof) (h3 : i ≠ .clr) :
    t.rxState = s.rxState ∧ t.rxx = s.rxx ∧ t.rxec = s.rxec := by
  cases h with
  | drop b | receive b => exact absurd rfl (h1 b)
  | truncate | endDone | endErr => exact absurd rfl h2
  | clear => exact absurd rfl h3
  | _ => simp

/-- Only RXB and CLR write RXCNT and RXSUM (R28, R46). -/
theorem receiverCount_eq (h : Effect s i t) (h1 : ∀ b, i ≠ .rxb b) (h2 : i ≠ .clr) :
    t.rxcnt = s.rxcnt ∧ t.rxsum = s.rxsum := by
  cases h with
  | drop b | receive b => exact absurd rfl (h1 b)
  | clear => exact absurd rfl h2
  | _ => simp

/-- RXCNT is cleared by CLR and otherwise rises by one (R28). -/
theorem rxcnt_change (h : Effect s i t) (hne : t.rxcnt ≠ s.rxcnt) :
    (i = .clr ∧ t.rxcnt = 0x0000#16) ∨ ((∃ b, i = .rxb b) ∧ t.rxcnt = s.rxcnt + 1#16) := by
  cases h with
  | clear => exact .inl ⟨rfl, rfl⟩
  | receive b => exact .inr ⟨⟨b, rfl⟩, rfl⟩
  | _ => simp at hne

/-- RXX is set only by a byte that is dropped (R26). -/
theorem rxx_set (h : Effect s i t) (hs : s.rxx = false) (ht : t.rxx = true) :
    (∃ b, i = .rxb b) ∧ (s.rxState = .done ∨ s.rxState = .err) := by
  cases h with
  | drop b hd => exact ⟨⟨b, rfl⟩, hd⟩
  | _ => simp [State.receiveWith, hs] at ht

/-- IDLE, RD and WR leave STATUS (R25). -/
theorem status_eq (h : Effect s i t)
    (hi : (∃ g, i = .idle g) ∨ (∃ a, i = .rd a) ∨ (∃ a d, i = .wr a d)) : t.status = s.status := by
  cases h with
  | idle | read | writeIgnored | write => simp
  | _ => simp at hi

end Effect

/-! ### The writers of the buffer bytes -/

/-- The transactions that may write the byte `v` to the buffer cell at host address `x` (R42 to R45). -/
inductive BufferWriter (s : State) (x : Nat) (v : Byte) : Instr → Prop
  | wr (a : Addr) (d : Byte) (hx : ebufAddr 0 ≤ x ∧ x < ebufAddr 255) : BufferWriter s x v (.wr a d)
  | enc (hx : txbufAddr 0 ≤ x ∧ x < txbufAddr 260) : BufferWriter s x v .enc
  | fdec (hx : foutAddr 0 ≤ x) : BufferWriter s x v .fdec
  | rxb (hx : x = rxbufAddr s.rxcnt.toNat ∧ s.rxcnt.toNat < 260) : BufferWriter s x v (.rxb v)

theorem encodeFrame_length (op : Byte) (body : List Byte) : (encodeFrame op body).length = body.length + 5 := by
  simp [encodeFrame]

@[simp] theorem State.requestBody_length (s : State) (n : Nat) : (s.requestBody n).length = n :=
  s.bufBytes_length _ n

/-- A buffer byte that changes was written by a transaction that may write it. -/
theorem Effect.bufferWriter {s t : State} {i : Instr} {x : Nat} (h : Effect s i t)
    (hx : t.bufByte x ≠ s.bufByte x) : BufferWriter s x (t.bufByte x) i := by
  cases h with
  | write a d l k hl =>
    rw [State.bufByte_storeLoc] at hx
    obtain ⟨hebuf, rfl⟩ : l = .ebuf ∧ x = a.toNat := by
      by_contra hc
      exact hx (if_neg hc)
    exact .wr a d (hl hebuf)
  | encodeRequest hn =>
    have hread : (s.encodeRequest s.eLen.toNat).bufByte x = _ := s.bufByte_setBufBytes (txbufAddr 0) _ x
    rw [hread, encodeFrame_length, State.requestBody_length] at hx
    obtain ⟨hlo, hhi⟩ : txbufAddr 0 ≤ x ∧ x < txbufAddr 0 + (s.eLen.toNat + 5) := by
      by_contra hc
      exact hx (if_neg hc)
    exact .enc ⟨hlo, by simp only [txbufAddr] at hhi ⊢; omega⟩
  | decodeDescriptor d =>
    have hread : (s.decodeDescriptor d).bufByte x = _ := s.bufByte_setBufBytes (foutAddr 0) _ x
    rw [hread] at hx
    refine .fdec ?_
    by_contra hc
    exact hx (if_neg fun hr => hc hr.1)
  | receive b q c sum e hn =>
    have hread : (s.receiveWith b q c sum e).bufByte x = _ := s.bufByte_storeReceived b x
    rw [hread] at hx ⊢
    obtain rfl : x = rxbufAddr s.rxcnt.toNat := by
      by_contra hc
      exact hx (if_neg hc)
    rw [if_pos rfl]
    exact .rxb ⟨rfl, hn⟩
  | _ => exact absurd rfl hx

/-- EBUF is written by WR only (R43). -/
theorem Effect.ebuf_eq {s t : State} {i : Instr} (h : Effect s i t) (hi : ∀ a d, i ≠ .wr a d) {j : Nat}
    (hj : j < 255) : t.ebuf j = s.ebuf j := by
  by_contra hne
  cases h.bufferWriter hne with
  | wr a d => exact hi a d rfl
  | enc hx | fdec hx | rxb hx => simp only [ebufAddr, txbufAddr, foutAddr, rxbufAddr] at hx; omega

/-- TXBUF is written by ENC only (R44). -/
theorem Effect.txbuf_eq {s t : State} {i : Instr} (h : Effect s i t) (hi : i ≠ .enc) {j : Nat}
    (hj : j < 260) : t.txbuf j = s.txbuf j := by
  by_contra hne
  cases h.bufferWriter hne with
  | enc => exact hi rfl
  | wr _ _ hx | fdec hx | rxb hx => simp only [ebufAddr, txbufAddr, foutAddr, rxbufAddr] at hx; omega

/-- FOUT is written by FDEC only (R45). -/
theorem Effect.fout_eq {s t : State} {i : Instr} (h : Effect s i t) (hi : i ≠ .fdec) (x : Nat) :
    t.bufByte (foutAddr 0 + x) = s.bufByte (foutAddr 0 + x) := by
  by_contra hne
  cases h.bufferWriter hne with
  | fdec => exact hi rfl
  | wr _ _ hx | enc hx | rxb hx => simp only [ebufAddr, txbufAddr, foutAddr, rxbufAddr] at hx; omega

/-- RXBUF is written by RXB only, at RXCNT and with the byte received (R42). -/
theorem Effect.rxbuf_change {s t : State} {i : Instr} (h : Effect s i t) {j : Nat} (hj : j < 260)
    (hne : t.rxbuf j ≠ s.rxbuf j) : i = .rxb (t.rxbuf j) ∧ s.rxcnt.toNat = j := by
  have hw : BufferWriter s (rxbufAddr j) (t.rxbuf j) i := h.bufferWriter hne
  cases hw with
  | rxb hx => exact ⟨rfl, (Nat.add_left_cancel hx.1).symm⟩
  | wr _ _ hx | enc hx | fdec hx => simp only [ebufAddr, txbufAddr, foutAddr, rxbufAddr] at hx; omega

end Sys2Proof.Machine

/-! ### The statements -/

/-- Settles O34: of all effects only the dropped byte sets RXX. -/
theorem onlyDroppedByteSetsRxx : Obligations.OnlyDroppedByteSetsRxx :=
  fun _ _ _ hi h => (exec_effect_of_wellFormed hi h).rxx_set

/-- Settles O50: a transaction leaves the configuration, and reset keeps it. -/
theorem configurationNeverChanges : Obligations.ConfigurationNeverChanges := by
  intro s t h
  rcases step_effect h with rfl | ⟨rest, rfl⟩ | ⟨rest, i, he⟩
  · exact ⟨rfl, rfl⟩
  · exact ⟨rfl, rfl⟩
  · exact he.configuration_eq

/-- Settles O52: no effect but that of WR writes an operand register or a byte of EBUF. -/
theorem onlyWriteChangesOperands : Obligations.OnlyWriteChangesOperands := by
  intro i s t hi h
  have he : Effect s i t := exec_effect (fun a d hw => absurd hw (hi a d)) h
  obtain ⟨harg, hop, hlen, hoff, hwid, hsgn, hshift, hmant⟩ := he.operands_eq hi
  exact ⟨harg, hop, hlen, hoff, hwid, hsgn, hshift, hmant, fun _ => he.ebuf_eq hi⟩

/-- Settles O53, each part by the lemma about its writers. -/
theorem resultsHaveTheirWriters : Obligations.ResultsHaveTheirWriters := by
  intro i s t hi h
  have he : Effect s i t := exec_effect_of_wellFormed hi h
  exact ⟨he.fieldResults_eq, fun hi => ⟨he.txlen_eq hi, fun _ => he.txbuf_eq hi⟩, fun hi x _ => he.fout_eq hi x,
    he.fcnt_eq, he.receiverStatus_eq, he.receiverCount_eq, he.rxcnt_change, fun _ => he.rxbuf_change⟩

/-- A command or a receive step answers the same whatever STATUS was: none reads it, and each writes it. -/
theorem exec_raise {i : Instr}
    (hi : (∃ c, i = .illcmd c) ∨ i = .clr ∨ i = .rxeof ∨ i = .enc ∨ i = .fx ∨ i = .fdec ∨ ∃ b, i = .rxb b)
    (s : State) (e : StatusCode) : exec i (s.raise e) = exec i s := by
  rcases hi with ⟨c, rfl⟩ | rfl | rfl | rfl | rfl | rfl | ⟨b, rfl⟩ <;> rfl

/-- Settles O54: the first three write no STATUS, and the others answer the same state whatever STATUS was. -/
theorem statusKeepsUnlessCommand : Obligations.StatusKeepsUnlessCommand :=
  fun _ s t hi h => ⟨(exec_effect_of_wellFormed hi h).status_eq, fun hc e => ⟨t, (exec_raise hc s e).trans h, rfl⟩⟩

end

section
/-! SUPPORT. The invariant of the reachable states (spec/10_state.md R48): it holds after reset, and every effect of a
transaction keeps it. -/

open Sys2Proof Sys2Proof.Machine

namespace Sys2Proof.Machine

/-! ### Buffer bytes that stay written -/

theorem Written.mono {s t : State} {a n : Nat} (h : Written s a n)
    (hm : ∀ x, (Memory.find? s.mem x).isSome = true → (Memory.find? t.mem x).isSome = true) : Written t a n :=
  fun i hi => hm (a + i) (h i hi)

theorem written_setBufBytes (s : State) (a : Nat) (bs : List Byte) : Written (s.setBufBytes a bs) a bs.length := by
  intro i hi
  simp [Memory.find?_setRange, hi]

theorem written_zero (s : State) (a : Nat) : Written s a 0 := fun i hi => absurd hi (Nat.not_lt_zero i)

/-! ### Reset -/

/-- Every state at the reset values meets the invariant, whatever its well-formed catalog. -/
theorem inv_reset_with {c : List Descriptor} (hc : catalogWf c = true) (m : Byte) (p : List HostEvent)
    (r : List Byte) (e : Nat) :
    Inv { State.reset with respMarker := m, catalog := c, pending := p, reads := r, epoch := e } where
  catalog_wf := hc
  receiver := ⟨rfl, rfl, rfl⟩
  rxcnt_le := Nat.zero_le _
  rxx_closed := fun h => nomatch h
  txlen_range := .inl rfl
  status_possible := rfl
  mem_wf := rfl
  mem_in_buffers := fun _ hc => nomatch hc
  rxbuf_written := written_zero _ _
  txbuf_written := written_zero _ _
  fout_written := written_zero _ _

/-- Only a well-formed catalog is configured (spec/44_fields.md R181). -/
theorem catalogWf_of_no_failure {c : List Descriptor} (h : catalogFailure c = none) : catalogWf c = true := by
  simpa [catalogFailure, catalogWf] using h

/-- A configured block is at the reset values, with its marker and its catalog (spec/70_reset_and_hazards.md R252). -/
theorem configure_eq_ok {m : Byte} {c : List Descriptor} {t : State} (h : configure m c = .ok t) :
    catalogWf c = true ∧ t = { State.reset with respMarker := m, catalog := c } := by
  unfold configure at h
  split at h
  · cases h
  · rename_i hf
    exact ⟨catalogWf_of_no_failure hf, by cases h; rfl⟩

/-! ### What the receiver's part of the invariant sees of RXBUF -/

theorem HeaderVerified.congr {s t : State} (h : HeaderVerified s) (hm : t.respMarker = s.respMarker)
    (hb : ∀ i, i < 4 → t.rxbuf i = s.rxbuf i) : HeaderVerified t := by
  unfold HeaderVerified
  rw [hb 0 (by omega), hb 1 (by omega), hb 2 (by omega), hb 3 (by omega), hm]
  exact h

theorem State.frameLength_congr {s t : State} (hb : t.rxbuf 2 = s.rxbuf 2) : t.frameLength = s.frameLength := by
  rw [State.frameLength, hb, State.frameLength]

theorem State.frameLength_le (s : State) : s.frameLength ≤ 255 := Nat.le_of_lt_succ (s.rxbuf 2).isLt

theorem State.bodyPrefix_congr {s t : State} {n : Nat} (hb : ∀ i, i < n → t.rxbuf (4 + i) = s.rxbuf (4 + i)) :
    t.bodyPrefix n = s.bodyPrefix n :=
  State.bufBytes_congr fun i hi => by
    rw [rxbufAddr, Nat.add_assoc]
    exact hb i hi

/-- One more byte of the body. -/
theorem State.bodyPrefix_succ (s : State) (n : Nat) : s.bodyPrefix (n + 1) = s.bodyPrefix n ++ [s.rxbuf (4 + n)] := by
  rw [State.bodyPrefix, State.bufBytes_succ, State.bodyPrefix, State.rxbuf, rxbufAddr, rxbufAddr, Nat.add_assoc]

/-- The receiver's part of the invariant depends on the receiver's registers, the marker and RXBUF. -/
theorem ReceiverInv.congr {s t : State} (h : ReceiverInv s) (hst : t.rxState = s.rxState) (hcnt : t.rxcnt = s.rxcnt)
    (hec : t.rxec = s.rxec) (hsum : t.rxsum = s.rxsum) (hm : t.respMarker = s.respMarker)
    (hb : ∀ i, i < 260 → t.rxbuf i = s.rxbuf i) : ReceiverInv t := by
  have hle : s.frameLength ≤ 255 := s.frameLength_le
  have hlen : t.frameLength = s.frameLength := State.frameLength_congr (hb 2 (by omega))
  have hpre : ∀ n, n ≤ 255 → t.bodyPrefix n = s.bodyPrefix n :=
    fun n hn => State.bodyPrefix_congr fun i hi => hb (4 + i) (by omega)
  have hbody : t.frameBody = s.frameBody := by
    rw [State.frameBody, hlen]
    exact hpre s.frameLength hle
  have hhead : HeaderVerified s → HeaderVerified t := fun hv => hv.congr hm fun i hi => hb i (by omega)
  unfold ReceiverInv at h ⊢
  rw [hst, hcnt, hec, hsum, hlen, hbody]
  cases hs : s.rxState <;> rw [hs] at h
  case idle | hdr | err => exact h
  case body =>
    obtain ⟨hv, h1, h4, hlt, hck, hok⟩ := h
    exact ⟨hhead hv, h1, h4, hlt, by rw [hpre _ (by omega)]; exact hck, hok⟩
  case ckb => exact ⟨hhead h.1, h.2⟩
  case done =>
    obtain ⟨hv, hc, hlast, hck, hok⟩ := h
    exact ⟨hhead hv, hc, by rw [hb _ (by omega)]; exact hlast, hck, hok⟩

/-! ### A byte stored by the receive step -/

section
variable {s : State} {b sum : Byte} {q : RxState} {c e : StatusCode}

theorem State.rxbuf_storeReceived_of_lt {i : Nat} (hi : i < s.rxcnt.toNat) : (s.storeReceived b).rxbuf i = s.rxbuf i :=
  (s.rxbuf_storeReceived b i).trans (if_neg (by omega))

theorem State.rxbuf_storeReceived_rxcnt : (s.storeReceived b).rxbuf s.rxcnt.toNat = b :=
  (s.rxbuf_storeReceived b _).trans (if_pos rfl)

theorem State.frameLength_storeReceived (h4 : 4 ≤ s.rxcnt.toNat) : (s.storeReceived b).frameLength = s.frameLength :=
  State.frameLength_congr (State.rxbuf_storeReceived_of_lt (by omega))

theorem State.bodyPrefix_storeReceived {n : Nat} (hn : 4 + n ≤ s.rxcnt.toNat) :
    (s.storeReceived b).bodyPrefix n = s.bodyPrefix n :=
  State.bodyPrefix_congr fun _ hi => State.rxbuf_storeReceived_of_lt (by omega)

theorem HeaderVerified.storeReceived (hv : HeaderVerified s) (h4 : 4 ≤ s.rxcnt.toNat) :
    HeaderVerified (s.storeReceived b) :=
  hv.congr rfl fun _ hi => State.rxbuf_storeReceived_of_lt (by omega)

/-- Before the fourth byte no more than three are counted, and no code is latched. -/
theorem ReceiverInv.header (h : ReceiverInv s) (hs : s.rxState = .idle ∨ s.rxState = .hdr) :
    s.rxcnt.toNat ≤ 3 ∧ s.rxec = .ok := by
  unfold ReceiverInv at h
  rcases hs with hs | hs <;> rw [hs] at h
  · exact ⟨by omega, h.2.1⟩
  · exact h.2

/-- The verdict on the fourth byte: an empty body waits for its checksum, another for its first byte. -/
theorem receiverInv_goodHeader (hcnt : s.rxcnt.toNat = 3) (hec : s.rxec = .ok)
    (hv : HeaderVerified (s.storeReceived b)) :
    ReceiverInv
      (s.receiveWith b (if (s.storeReceived b).rxbuf 2 = 0x00#8 then .ckb else .body) s.rxec 0x00#8 e) := by
  have hcnt' : (s.storeReceived b).rxcnt.toNat = 4 := by
    rw [s.storeReceived_rxcnt_toNat b (by omega), hcnt]
  split
  · rename_i h0
    have hlen : (s.storeReceived b).frameLength = 0 := by rw [State.frameLength, h0]; rfl
    have hend : (s.storeReceived b).rxcnt.toNat = 4 + (s.storeReceived b).frameLength := by rw [hcnt', hlen]
    have hsum : 0x00#8 = ck8 (s.storeReceived b).frameBody := by rw [State.frameBody, hlen]; rfl
    exact ⟨hv, hend, hsum, hec⟩
  · rename_i h0
    have hlen : 1 ≤ (s.storeReceived b).frameLength := Nat.pos_of_ne_zero fun hz => h0 (BitVec.eq_of_toNat_eq hz)
    have hlt : (s.storeReceived b).rxcnt.toNat < 4 + (s.storeReceived b).frameLength := by omega
    have hsum : 0x00#8 = ck8 ((s.storeReceived b).bodyPrefix ((s.storeReceived b).rxcnt.toNat - 4)) := by
      rw [hcnt']; rfl
    exact ⟨hv, hlen, hcnt'.ge, hlt, hsum, hec⟩

/-- A body byte is added to the running sum, and the last one makes way for the checksum byte. -/
theorem ReceiverInv.receiveBody (h : ReceiverInv s) (hn : s.rxcnt.toNat < 260) (hs : s.rxState = .body) :
    ReceiverInv
      (s.receiveWith b
        (if (s.storeReceived b).rxcnt.toNat = 4 + (s.storeReceived b).frameLength then .ckb else .body)
        s.rxec (s.rxsum + b) e) := by
  unfold ReceiverInv at h
  rw [hs] at h
  obtain ⟨hv, h1, h4, hlt, hck, hok⟩ := h
  have hlen : (s.storeReceived b).frameLength = s.frameLength := State.frameLength_storeReceived h4
  have hcnt : (s.storeReceived b).rxcnt.toNat = s.rxcnt.toNat + 1 := s.storeReceived_rxcnt_toNat b hn
  have hsum : s.rxsum + b = ck8 ((s.storeReceived b).bodyPrefix ((s.storeReceived b).rxcnt.toNat - 4)) := by
    rw [hcnt, Nat.sub_add_comm h4, State.bodyPrefix_succ, ck8_append_singleton, Nat.add_sub_cancel' h4,
      State.rxbuf_storeReceived_rxcnt, State.bodyPrefix_storeReceived (by omega), hck]
  split
  · rename_i hend
    rw [hend, Nat.add_sub_cancel_left] at hsum
    exact ⟨hv.storeReceived h4, hend, hsum, hok⟩
  · exact ⟨hv.storeReceived h4, hlen ▸ h1, (by omega : 4 ≤ (s.storeReceived b).rxcnt.toNat),
      (by omega : (s.storeReceived b).rxcnt.toNat < 4 + (s.storeReceived b).frameLength), hsum, hok⟩

/-- The checksum byte that equals the running sum completes the frame. -/
theorem ReceiverInv.accept (h : ReceiverInv s) (hn : s.rxcnt.toNat < 260) (hs : s.rxState = .ckb)
    (hb : b = s.rxsum) : ReceiverInv (s.receiveWith b .done s.rxec s.rxsum e) := by
  unfold ReceiverInv at h
  rw [hs] at h
  obtain ⟨hv, hcnt, hck, hok⟩ := h
  have h4 : 4 ≤ s.rxcnt.toNat := by omega
  have hlen : (s.storeReceived b).frameLength = s.frameLength := State.frameLength_storeReceived h4
  have hend : (s.storeReceived b).rxcnt.toNat = 5 + (s.storeReceived b).frameLength := by
    rw [s.storeReceived_rxcnt_toNat b hn]; omega
  have hsum : s.rxsum = ck8 (s.storeReceived b).frameBody := by
    rw [hck, State.frameBody, State.frameBody, hlen]
    exact congrArg ck8 (State.bodyPrefix_storeReceived hcnt.ge).symm
  have hlast : (s.storeReceived b).rxbuf (4 + (s.storeReceived b).frameLength) = b := by
    rw [hlen, ← hcnt, State.rxbuf_storeReceived_rxcnt]
  exact ⟨hv.storeReceived h4, hend, hlast.trans (hb.trans hsum), hsum, hok⟩

/-- Every verdict leads to a state in which the receiver's part of the invariant holds (R152, R153). -/
theorem ReceiverInv.receiveWith (h : ReceiverInv s) (hn : s.rxcnt.toNat < 260)
    (hv : ReceiveVerdict s b q c sum e) : ReceiverInv (s.receiveWith b q c sum e) := by
  cases hv with
  | header hs hlt =>
    have hcnt : (s.storeReceived b).rxcnt.toNat = s.rxcnt.toNat + 1 := s.storeReceived_rxcnt_toNat b hn
    exact ⟨(by omega : 1 ≤ (s.storeReceived b).rxcnt.toNat), (by omega : (s.storeReceived b).rxcnt.toNat ≤ 3),
      (h.header hs).2⟩
  | badHeader hs e he => exact .inr (he.imp id .inl)
  | goodHeader hs h3 hhead =>
    obtain ⟨hle, hok⟩ := h.header hs
    exact receiverInv_goodHeader (by omega) hok hhead
  | body hs => exact h.receiveBody hn hs
  | accept hs hb => exact h.accept hn hs hb
  | badBody hs => exact .inr (.inr (.inr rfl))

end

/-! ### Every effect keeps the invariant -/

namespace Inv

variable {s : State}

theorem withPending (h : Inv s) (p : List HostEvent) : Inv (s.withPending p) := { h with }

theorem giveRead (h : Inv s) (b : Byte) : Inv (s.giveRead b) := { h with }

theorem raise (h : Inv s) {e : StatusCode} (he : e.reserved = false) : Inv (s.raise e) :=
  { h with status_possible := he }

theorem applyReset (h : Inv s) : Inv s.applyReset := inv_reset_with h.catalog_wf ..

/-- Bytes written to the buffers above RXBUF. -/
theorem setBufBytes (h : Inv s) {a : Nat} {bs : List Byte} (ha : rxbufAddr 260 ≤ a)
    (hb : ∀ x, a ≤ x → x < a + bs.length → isBufferAddr x = true) : Inv (s.setBufBytes a bs) :=
  have hmono := fun x => Memory.find?_isSome_setRange (m := s.mem) (x := x) a bs
  have hrx : ∀ i, i < 260 → (s.setBufBytes a bs).rxbuf i = s.rxbuf i := fun i hi =>
    (s.bufByte_setBufBytes a bs _).trans (if_neg (by simp only [rxbufAddr] at ha ⊢; omega))
  { h with
    receiver := h.receiver.congr rfl rfl rfl rfl rfl hrx
    mem_wf := Memory.wf_setRange a bs h.mem_wf
    mem_in_buffers := fun c hc =>
      (Memory.mem_setRange hc).elim (fun hr => hb c.1 hr.1 hr.2) (h.mem_in_buffers c)
    rxbuf_written := h.rxbuf_written.mono hmono
    txbuf_written := h.txbuf_written.mono hmono
    fout_written := h.fout_written.mono hmono }

/-- A host write: to a register, or to a byte of EBUF. -/
theorem storeLoc (h : Inv s) (l : Loc) (k : Nat) {a : Nat} (v : Byte)
    (hl : l = .ebuf → ebufAddr 0 ≤ a ∧ a < ebufAddr 255) : Inv (s.storeLoc l k a v) := by
  cases l
  case ebuf =>
    obtain ⟨hlo, hhi⟩ := hl rfl
    refine h.setBufBytes (bs := [v]) (Nat.le_trans (by decide) hlo) fun x h1 h2 => ?_
    obtain rfl : x = a := by simp only [List.length_singleton] at h2; omega
    exact isBufferAddr_of_region (r := ⟨0x0300, 255, .ebuf, .rw⟩) (by decide) rfl hlo hhi
  all_goals exact { h with }

theorem clear (h : Inv s) : Inv s.clear :=
  { h with
    receiver := ⟨rfl, rfl, rfl⟩
    rxcnt_le := Nat.zero_le _
    rxx_closed := fun hx => nomatch hx
    status_possible := rfl
    rxbuf_written := written_zero _ _
    fout_written := written_zero _ _ }

theorem truncate (h : Inv s) : Inv (s.rxFail .truncatedFrame) :=
  { h with
    receiver := .inl rfl
    rxx_closed := fun _ => .inr rfl
    status_possible := rfl }

/-- In ERR the latched code is one of the receiver's four. -/
theorem rxec_possible (h : Inv s) (hs : s.rxState = .err) : s.rxec.reserved = false := by
  have hr := h.receiver
  unfold ReceiverInv at hr
  rw [hs] at hr
  rcases hr with hc | hc | hc | hc <;> rw [hc] <;> rfl

theorem encodeTooLarge (h : Inv s) : Inv s.encodeTooLarge :=
  { h with
    txlen_range := .inl rfl
    status_possible := rfl
    txbuf_written := written_zero _ _ }

theorem encodeRequest (h : Inv s) {n : Nat} (hn : n ≤ 255) : Inv (s.encodeRequest n) :=
  have hlen : (encodeFrame s.eOpcode (s.requestBody n)).length = n + 5 := by simp [encodeFrame_length]
  have htx : (s.encodeRequest n).txlen.toNat = n + 5 := by simp; omega
  have hmem : Inv (s.setBufBytes (txbufAddr 0) (encodeFrame s.eOpcode (s.requestBody n))) :=
    h.setBufBytes (by decide) fun x h1 h2 => by
      obtain ⟨i, rfl⟩ := Nat.exists_eq_add_of_le h1
      exact isBufferAddr_txbuf (i := i) (by omega)
  { hmem with
    txlen_range := .inr (by omega)
    status_possible := rfl
    txbuf_written := by
      rw [htx, ← hlen]
      exact written_setBufBytes s (txbufAddr 0) _ }

theorem extractField (h : Inv s) : Inv s.extractField := { h with status_possible := rfl }

theorem decodeFail (h : Inv s) {e : StatusCode} (he : e.reserved = false) : Inv (s.decodeFail e) :=
  { h with
    status_possible := he
    fout_written := written_zero _ _ }

theorem decodeDescriptor (h : Inv s) {d : Descriptor} (hd : d.fields.length ≤ 255) : Inv (s.decodeDescriptor d) :=
  have hcnt : (s.decodeDescriptor d).fcnt.toNat = d.fields.length := by simp; omega
  have hmem : Inv (s.setBufBytes (foutAddr 0) (descriptorBytes d s.frameBody)) :=
    h.setBufBytes (by decide) fun x h1 h2 =>
      isBufferAddr_fout h1 (by rw [descriptorBytes_length] at h2; omega)
  { hmem with
    status_possible := rfl
    fout_written := by
      rw [hcnt, ← descriptorBytes_length d s.frameBody]
      exact written_setBufBytes s (foutAddr 0) _ }

theorem dropReceived (h : Inv s) (hs : s.rxState = .done ∨ s.rxState = .err) : Inv s.dropReceived :=
  { h with
    rxx_closed := fun _ => hs
    status_possible := rfl }

/-- A received byte stored and judged. -/
theorem receiveWith (h : Inv s) {b sum : Byte} {q : RxState} {c e : StatusCode} (hn : s.rxcnt.toNat < 260)
    (hv : ReceiveVerdict s b q c sum e) : Inv (s.receiveWith b q c sum e) :=
  have hcnt : (s.receiveWith b q c sum e).rxcnt.toNat = s.rxcnt.toNat + 1 := s.storeReceived_rxcnt_toNat b hn
  have hmono := fun x => Memory.find?_isSome_set (m := s.mem) (x := x) (rxbufAddr s.rxcnt.toNat) b
  { h with
    receiver := h.receiver.receiveWith hn hv
    rxcnt_le := by omega
    rxx_closed := fun hx => by
      have hopen := hv.rxState_open
      rcases h.rxx_closed hx with hs | hs
      · exact absurd hs hopen.1
      · exact absurd hs hopen.2
    status_possible := hv.status_possible
    mem_wf := Memory.wf_set _ b h.mem_wf
    mem_in_buffers := fun c hc => by
      rcases Memory.mem_set hc with rfl | hc
      · exact isBufferAddr_rxbuf hn
      · exact h.mem_in_buffers c hc
    rxbuf_written := by
      rw [hcnt]
      intro i hi
      rcases Nat.lt_succ_iff_lt_or_eq.mp hi with hi | rfl
      · exact hmono _ (h.rxbuf_written i hi)
      · simp [State.receiveWith, Memory.find?_set, rxbufAddr]
    txbuf_written := h.txbuf_written.mono hmono
    fout_written := h.fout_written.mono hmono }

end Inv

/-- A descriptor of a well-formed catalog has at most as many fields as FOUT has entries (R181, CAT_NFIELDS). -/
theorem fields_length_le_of_lookup {c : List Descriptor} {op : Byte} {d : Descriptor} (hc : catalogWf c = true)
    (hd : lookup c op = some d) : d.fields.length ≤ 255 := by
  have hn : CatalogCheck.passes c .nFields = true := List.all_eq_true.mp hc .nFields (by decide)
  simpa using List.all_eq_true.mp hn d (List.mem_of_find?_eq_some hd)

/-- Every effect of a transaction keeps the invariant. -/
theorem Inv.of_effect {s t : State} {i : Instr} (h : Inv s) (he : Effect s i t) : Inv t := by
  cases he with
  | idle => exact h
  | read => exact h.giveRead _
  | writeIgnored => exact h
  | write a d l k hl => exact h.storeLoc l k d hl
  | illegalCommand => exact h.raise rfl
  | clear => exact h.clear
  | truncate => exact h.truncate
  | endDone => exact h.raise rfl
  | endErr hs => exact h.raise (h.rxec_possible hs)
  | encodeTooLarge => exact h.encodeTooLarge
  | encodeRequest hn => exact h.encodeRequest hn
  | extractFail e he => exact h.raise he
  | extractField => exact h.extractField
  | decodeFail e he => exact h.decodeFail he
  | decodeDescriptor d hd => exact h.decodeDescriptor (fields_length_le_of_lookup h.catalog_wf hd)
  | drop b hs => exact h.dropReceived hs
  | receive b q c sum e hn hv => exact h.receiveWith hn hv

end Sys2Proof.Machine

/-! ### The statements -/

/-- Settles O47: both are states at the reset values. -/
theorem resetMeetsInvariant : Obligations.ResetMeetsInvariant := by
  refine ⟨inv_reset_with (c := []) rfl .., fun m c t h => ?_⟩
  obtain ⟨hc, rfl⟩ := configure_eq_ok h
  exact inv_reset_with hc ..

/-- Settles O48: the idle bus keeps the state, reset re-establishes the invariant, and every effect of a transaction
keeps it. -/
theorem stepKeepsInvariant : Obligations.StepKeepsInvariant := by
  intro s t hs h
  rcases step_effect h with rfl | ⟨rest, rfl⟩ | ⟨rest, i, he⟩
  · exact hs
  · exact (hs.withPending rest).applyReset
  · exact (hs.withPending rest).of_effect he

end

section
/-! SUPPORT. The bus read at every row of the address map (spec/20_memory.md R71 to R77), the bus write as the
transaction that its word decodes to (R72), and the statements about them. -/

open Sys2Proof Sys2Proof.Machine

namespace Sys2Proof.Machine

/-! ### The bus read of a row (R72, R74) -/

theorem addressMap_below_2_pow_16 : ∀ r ∈ addressMap, r.base + r.size ≤ 2 ^ 16 := by decide

/-- The bus read at offset `k` of a row of the map. -/
theorem memRead_ofNat_of_region {r : Region} (hr : r ∈ addressMap) {k : Nat} (hk : k < r.size) (s : State) :
    memRead (BitVec.ofNat 16 (r.base + k)) s = if r.access = .w then 0x00#8 else s.locByte r.loc k (r.base + k) := by
  have hend := addressMap_below_2_pow_16 r hr
  have ha : (BitVec.ofNat 16 (r.base + k)).toNat = r.base + k := by
    rw [BitVec.toNat_ofNat, Nat.mod_eq_of_lt (by omega)]
  rw [memRead_of_region hr (by omega) (by omega), ha, Nat.add_sub_cancel_left]

/-- The bytes of a row that shows the register `v` give its value, least significant byte first (R74). -/
theorem leValue_memRead_of_region {r : Region} (hr : r ∈ addressMap) (hw : r.access ≠ .w) {s : State} {n : Nat}
    {v : BitVec n} (hn : n ≤ 8 * r.size) (hv : ∀ k a, s.locByte r.loc k a = byteOf v k) :
    leValue ((List.range r.size).map fun k => memRead (BitVec.ofNat 16 (r.base + k)) s) = v.toNat := by
  have hbytes : (List.range r.size).map (fun k => memRead (BitVec.ofNat 16 (r.base + k)) s) = leBytes r.size v :=
    List.map_congr_left fun k hk => by
      rw [memRead_ofNat_of_region hr (List.mem_range.mp hk), if_neg hw, hv]
  rw [hbytes, leValue_leBytes v r.size hn]

/-! ### The status registers as numbers (spec/10_state.md R25 to R27) -/

theorem State.statusByte_toNat (s : State) : s.statusByte.toNat = s.status.code.toNat :=
  BitVec.toNat_setWidth_of_le (by decide)

theorem State.rxecByte_toNat (s : State) : s.rxecByte.toNat = s.rxec.code.toNat :=
  BitVec.toNat_setWidth_of_le (by decide)

/-- RXX stands above STATE, so that the byte is their sum. -/
theorem State.rxstByte_toNat (s : State) :
    s.rxstByte.toNat = s.rxState.code.toNat + (if s.rxx then 128 else 0) := by
  unfold State.rxstByte
  cases s.rxState <;> cases s.rxx <;> rfl

/-! ### Reads leave what every address reads (R77) -/

/-- No location shows the record of the bytes read (log 4). -/
theorem memRead_reads (a : Addr) (s : State) (l : List Byte) : memRead a { s with reads := l } = memRead a s := rfl

/-- Reads append to the record what each address reads at the start, and do nothing else. -/
theorem execAll_rd (as : List Addr) (s : State) :
    execAll (as.map Instr.rd) s = .next { s with reads := s.reads ++ as.map fun a => memRead a s } := by
  induction as generalizing s with
  | nil => simp [execAll]
  | cons a as ih =>
    have hread : exec (.rd a) s = .next { s with reads := s.reads ++ [memRead a s] } := rfl
    simp [execAll, hread, ih, memRead_reads]

/-! ### The bus write as the transaction of its word (R72, spec/30_encoding.md R91, R96) -/

/-- A command code performs the command that a write of it to CMD starts. -/
theorem exec_decodeCommand (c : Byte) (s : State) : exec (decodeCommand c) s = .next (startCommand c s) := by
  unfold decodeCommand startCommand
  split_ifs <;> rfl

/-- The decoded write, at CMD, at RXD and at every other address, is the bus write. -/
theorem exec_decodeWrite (a : Addr) (d : Byte) (s : State) : exec (decodeWrite a d) s = memWrite a d s := by
  unfold decodeWrite
  split_ifs with hcmd hrxd
  · subst hcmd
    exact exec_decodeCommand d s
  · subst hrxd
    rfl
  · rfl

theorem decode_htwOf_write (a : Addr) (d : Byte) : decode (htwOf 0b01#2 a d) = .ok (decodeWrite a d) := by
  simp [decode]

end Sys2Proof.Machine

/-! ### The statements -/

/-- Settles O15: the one-byte registers by their rows, the longer ones by the little-endian bytes of theirs, the buffers
at every offset of their rows, and the holes by having no row. -/
theorem busReadFollowsAddressMap : Obligations.BusReadFollowsAddressMap := by
  intro s
  refine ⟨rfl, rfl, s.statusByte_toNat, s.rxstByte_toNat, s.rxecByte_toNat, ?rxcnt, rfl, rfl, ?eLen, ?txlen,
    rfl, rfl, ?xSgn, ?xShift, ?xMant, ?xRaw, ?xRsh, ?xScaled, rfl, ?rxbuf, ?ebuf, ?txbuf, ?fout,
    fun a ha => memRead_unmapped ha s⟩
  case rxcnt =>
    exact leValue_memRead_of_region (r := ⟨0x0006, 2, .rxcnt, .r⟩) (by decide) (by decide) le_rfl fun _ _ => rfl
  case eLen =>
    exact leValue_memRead_of_region (r := ⟨0x0012, 2, .eLen, .rw⟩) (by decide) (by decide) le_rfl fun _ _ => rfl
  case txlen =>
    exact leValue_memRead_of_region (r := ⟨0x0014, 2, .txlen, .r⟩) (by decide) (by decide) le_rfl fun _ _ => rfl
  case xSgn =>
    change (if s.xSgn then 0x01#8 else 0x00#8).toNat = _
    cases s.xSgn <;> rfl
  case xShift => exact BitVec.toNat_setWidth_of_le (show 6 ≤ 8 by decide) (b := s.xShift)
  case xMant =>
    exact leValue_memRead_of_region (r := ⟨0x0024, 4, .xMant, .rw⟩) (by decide) (by decide) le_rfl fun _ _ => rfl
  case xRaw =>
    exact leValue_memRead_of_region (r := ⟨0x0028, 4, .xRaw, .r⟩) (by decide) (by decide) le_rfl fun _ _ => rfl
  case xRsh => exact BitVec.toNat_setWidth_of_le (show 6 ≤ 8 by decide) (b := s.xRsh)
  case xScaled =>
    exact leValue_memRead_of_region (r := ⟨0x0030, 8, .xScaled, .r⟩) (by decide) (by decide) le_rfl fun _ _ => rfl
  case rxbuf => exact fun i hi => memRead_ofNat_of_region (r := ⟨0x0100, 260, .rxbuf, .r⟩) (by decide) hi s
  case ebuf => exact fun i hi => memRead_ofNat_of_region (r := ⟨0x0300, 255, .ebuf, .rw⟩) (by decide) hi s
  case txbuf => exact fun i hi => memRead_ofNat_of_region (r := ⟨0x0400, 260, .txbuf, .r⟩) (by decide) hi s
  case fout =>
    intro i k hi hk
    rw [foutAddr, Nat.add_assoc]
    exact memRead_ofNat_of_region (r := ⟨0x1000, 4080, .fout, .r⟩) (by decide) (show 16 * i + k < 4080 by omega) s

/-- Settles O16: by induction on the reads, each of which changes the record only, which no address shows. -/
theorem readsHaveNoSideEffects : Obligations.ReadsHaveNoSideEffects :=
  fun as s => ⟨_, execAll_rd as s, rfl, fun b => memRead_reads b s _⟩

/-- Settles O18: the word decodes to the decoded write of its address and byte, which is the bus write. -/
theorem busWritePerformsDecodedWrite : Obligations.BusWritePerformsDecodedWrite := by
  intro a d s i h
  rw [decode_htwOf_write] at h
  cases h
  exact exec_decodeWrite a d s

end

section
/-! SUPPORT. Transaction words: the decoder and the encoder as inverses of each other, the row of
spec/opcode_table.json that a word is decoded by, and the statements about them (spec/30_encoding.md R90, R91, R96,
R101). -/

open Sys2Proof Sys2Proof.Machine

namespace Sys2Proof

/-! ### The decoder on the words of the encoder -/

theorem decode_idleWord (g : BitVec 30) : decode (g.setWidth 32) = .ok (.idle g) := by
  simp [decode]

theorem decode_htwOf_read (a : Addr) : decode (htwOf 0b10#2 a 0x00#8) = .ok (.rd a) := by
  simp [decode]

/-- The codes that name no command are 0x00 and those from 0x06 up (R96). -/
theorem decodeCommand_of_wellFormed {c : Byte} (h : wellFormedIllegalCode c = true) :
    decodeCommand c = .illcmd c := by
  revert c
  decide

theorem decodeWrite_rxd (d : Byte) : decodeWrite 0x0008#16 d = .rxb d := rfl

/-- A write to neither CMD nor RXD is a WR (R91). -/
theorem decodeWrite_of_ne {a : Addr} (hcmd : a ≠ 0x0000#16) (hrxd : a ≠ 0x0008#16) (d : Byte) :
    decodeWrite a d = .wr a d := by
  rw [decodeWrite, if_neg hcmd, if_neg hrxd]

theorem decodeWrite_of_wellFormed {a : Addr} (h : wellFormedWrite a = true) (d : Byte) :
    decodeWrite a d = .wr a d := by
  obtain ⟨hcmd, hrxd⟩ : a ≠ 0x0000#16 ∧ a ≠ 0x0008#16 := by simpa [wellFormedWrite] using h
  exact decodeWrite_of_ne hcmd hrxd d

/-! ### The rows of spec/opcode_table.json by the fields of a word -/

/-- Patterns side by side are equal only part by part. -/
theorem bitVec_append_inj {m n : Nat} {x x' : BitVec m} {y y' : BitVec n} (h : x ++ y = x' ++ y') : x = x' ∧ y = y' := by
  have hx := congrArg (BitVec.extractLsb' n m) h
  have hy := congrArg (BitVec.extractLsb' 0 n) h
  rw [BitVec.extractLsb'_append_eq_left, BitVec.extractLsb'_append_eq_left] at hx
  rw [BitVec.extractLsb'_append_eq_right, BitVec.extractLsb'_append_eq_right] at hy
  exact ⟨hx, hy⟩

/-- The word of four fields (spec/30_encoding.md R90). -/
def wordOfFields (k : BitVec 2) (r : BitVec 6) (a : Addr) (d : Byte) : Htw := k ++ r ++ a ++ d

theorem wordOfFields_htw (w : Htw) : wordOfFields (htwKind w) (htwRsv w) (htwAddr w) (htwData w) = w := by
  have hhigh : htwKind w ++ htwRsv w = w.extractLsb' 24 8 := BitVec.extractLsb'_append_extractLsb'_eq_extractLsb' rfl
  have hmid : w.extractLsb' 24 8 ++ htwAddr w = w.extractLsb' 8 24 :=
    BitVec.extractLsb'_append_extractLsb'_eq_extractLsb' rfl
  rw [wordOfFields, hhigh, hmid]
  exact BitVec.extractLsb'_append_extractLsb' (w := 24) (len := 8)

theorem wordOfFields_and (k k' : BitVec 2) (r r' : BitVec 6) (a a' : Addr) (d d' : Byte) :
    wordOfFields k r a d &&& wordOfFields k' r' a' d' =
      wordOfFields (k &&& k') (r &&& r') (a &&& a') (d &&& d') := by
  change ((k ++ r ++ a ++ d) &&& (k' ++ r' ++ a' ++ d') : BitVec (2 + 6 + 16 + 8)) = _
  rw [BitVec.and_append, BitVec.and_append, BitVec.and_append]
  rfl

theorem wordOfFields_inj {k k' : BitVec 2} {r r' : BitVec 6} {a a' : Addr} {d d' : Byte} :
    wordOfFields k r a d = wordOfFields k' r' a' d' ↔ k = k' ∧ r = r' ∧ a = a' ∧ d = d' := by
  refine ⟨fun h => ?_, fun ⟨hk, hr, ha, hd⟩ => by rw [hk, hr, ha, hd]⟩
  obtain ⟨hkra, hd⟩ := bitVec_append_inj h
  obtain ⟨hkr, ha⟩ := bitVec_append_inj hkra
  obtain ⟨hk, hr⟩ := bitVec_append_inj hkr
  exact ⟨hk, hr, ha, hd⟩

/-- A field's part of a row's mask: all of it, or none of it where the row leaves the field free. -/
def fieldMask {n : Nat} (f : Option (BitVec n)) : BitVec n :=
  match f with
  | some _ => BitVec.allOnes n
  | none => 0#n

/-- A row that asks for `k` as KIND and for each of the other fields that it gives. -/
def fieldRow (name : String) (k : BitVec 2) (r : Option (BitVec 6)) (a : Option Addr) (d : Option Byte) : TableRow where
  mnemonic := name
  mask := wordOfFields (BitVec.allOnes 2) (fieldMask r) (fieldMask a) (fieldMask d)
  pattern := wordOfFields k (r.getD 0#6) (a.getD 0x0000#16) (d.getD 0x00#8)

theorem and_fieldMask_eq {n : Nat} (x : BitVec n) (f : Option (BitVec n)) :
    x &&& fieldMask f = f.getD 0#n ↔ ∀ v ∈ f, x = v := by
  cases f <;> simp [fieldMask]

theorem fieldRow_fits (name : String) (k : BitVec 2) (r : Option (BitVec 6)) (a : Option Addr) (d : Option Byte)
    (w : Htw) :
    (fieldRow name k r a d).fits w = true ↔
      htwKind w = k ∧ (∀ v ∈ r, htwRsv w = v) ∧ (∀ v ∈ a, htwAddr w = v) ∧ ∀ v ∈ d, htwData w = v := by
  rw [TableRow.fits, beq_iff_eq, fieldRow]
  conv_lhs => rw [← wordOfFields_htw w]
  simp only [wordOfFields_and, wordOfFields_inj, BitVec.and_allOnes, and_fieldMask_eq]

/-- The rows of spec/opcode_table.json by the fields that they ask for. -/
theorem opcodeTable_eq_fieldRows :
    opcodeTable =
      [fieldRow "IDLE" 0b00#2 none none none,
       fieldRow "RD" 0b10#2 (some 0#6) none (some 0x00#8),
       fieldRow "WR" 0b01#2 (some 0#6) none none,
       fieldRow "ILLCMD" 0b01#2 (some 0#6) (some 0x0000#16) none,
       fieldRow "CLR" 0b01#2 (some 0#6) (some 0x0000#16) (some 0x01#8),
       fieldRow "RXEOF" 0b01#2 (some 0#6) (some 0x0000#16) (some 0x02#8),
       fieldRow "ENC" 0b01#2 (some 0#6) (some 0x0000#16) (some 0x03#8),
       fieldRow "FX" 0b01#2 (some 0#6) (some 0x0000#16) (some 0x04#8),
       fieldRow "FDEC" 0b01#2 (some 0#6) (some 0x0000#16) (some 0x05#8),
       fieldRow "RXB" 0b01#2 (some 0#6) (some 0x0008#16) none] := by
  decide

/-- The rows of a write: of those that fit, the heaviest is the one of what the write stands for. -/
theorem mostSpecificRow_write {w : Htw} (hk : htwKind w = 0b01#2) (hr : htwRsv w = 0#6) :
    (mostSpecificRow w).map TableRow.mnemonic = some (decodeWrite (htwAddr w) (htwData w)).mnemonic := by
  unfold mostSpecificRow decodeWrite
  rw [opcodeTable_eq_fieldRows]
  split_ifs with hcmd hrxd
  · unfold decodeCommand
    split_ifs with h1 h2 h3 h4 h5 <;> simp [-Option.map_eq_some_iff, fieldRow_fits, *] <;> rfl
  · simp [-Option.map_eq_some_iff, fieldRow_fits, hk, hr, hrxd]
    rfl
  · simp [-Option.map_eq_some_iff, fieldRow_fits, hk, hr, hcmd, hrxd]
    rfl

/-- The row with the most bits set in its mask is the row of the instruction that the word decodes to, and a word that
is refused has none (spec/30_encoding.md R91). -/
theorem mostSpecificRow_mnemonic (w : Htw) :
    (mostSpecificRow w).map TableRow.mnemonic = (decode w).toOption.map Instr.mnemonic := by
  rcases decode_cases w with ⟨hk, hd⟩ | ⟨hk, hr, hd⟩ | ⟨hk, hr, hz, hd⟩ | ⟨hk, hd⟩ | ⟨hk | hk, hr, hd⟩ |
    ⟨hk, hr, hz, hd⟩ <;> rw [hd]
  case inr.inl => exact mostSpecificRow_write hk hr
  all_goals
    simp [-Option.map_eq_some_iff, mostSpecificRow, opcodeTable_eq_fieldRows, fieldRow_fits, *]
    rfl

/-! ### The words that decode (R91) -/

theorem decode_of_write {w : Htw} (hk : htwKind w = 0b01#2) (hr : htwRsv w = 0#6) :
    decode w = .ok (decodeWrite (htwAddr w) (htwData w)) := by
  simp [decode, hk, hr]

/-- A word that decodes keeps the rules about KIND, RSV and DATA. -/
theorem fields_of_decode_ok {w : Htw} {i : Instr} (h : decode w = .ok i) :
    htwKind w = 0b00#2 ∨ (htwKind w = 0b01#2 ∧ htwRsv w = 0#6) ∨
      (htwKind w = 0b10#2 ∧ htwRsv w = 0#6 ∧ htwData w = 0x00#8) := by
  rcases decode_cases w with ⟨hk, -⟩ | ⟨hk, hr, -⟩ | ⟨hk, hr, hz, -⟩ | ⟨-, hd⟩ | ⟨-, -, hd⟩ | ⟨-, -, -, hd⟩
  · exact .inl hk
  · exact .inr (.inl ⟨hk, hr⟩)
  · exact .inr (.inr ⟨hk, hr, hz⟩)
  all_goals
    rw [hd] at h
    cases h

/-! ### The words of the assembler (R101) -/

theorem asmWr_eq_htwOf (a : Addr) (d : Byte) : asmWr a d = htwOf 0b01#2 a d := rfl

theorem asmRd_eq_htwOf (a : Addr) : asmRd a = htwOf 0b10#2 a 0x00#8 := BitVec.or_zero.symm

end Sys2Proof

/-! ### The statements -/

/-- Settles O1: IDLE and RD by the fields of their words, and every other transaction as the decoded write of its
address and byte. -/
theorem decodeEncodeRoundTrip : Obligations.DecodeEncodeRoundTrip := by
  intro i hi
  cases i with
  | idle g => exact decode_idleWord g
  | rd a => exact decode_htwOf_read a
  | wr a d => rw [encode, decode_htwOf_write, decodeWrite_of_wellFormed hi]
  | illcmd c =>
    rw [← decodeCommand_of_wellFormed hi, (encode_decodeCommand c).2]
    exact decode_htwOf_write _ _
  | clr => exact decode_htwOf_write 0x0000#16 0x01#8
  | rxeof => exact decode_htwOf_write 0x0000#16 0x02#8
  | enc => exact decode_htwOf_write 0x0000#16 0x03#8
  | fx => exact decode_htwOf_write 0x0000#16 0x04#8
  | fdec => exact decode_htwOf_write 0x0000#16 0x05#8
  | rxb b => exact decode_htwOf_write 0x0008#16 b

/-- Settles O2: by the three ways a word decodes, each of which keeps every bit of the word's fields. -/
theorem encodeDecodeRoundTrip : Obligations.EncodeDecodeRoundTrip := by
  intro w i h
  refine ⟨wellFormed_of_decode h, ?_⟩
  rcases decode_cases w with ⟨hk, hd⟩ | ⟨hk, hr, hd⟩ | ⟨hk, hr, hz, hd⟩ | ⟨-, hd⟩ | ⟨-, -, hd⟩ | ⟨-, -, -, hd⟩ <;>
    rw [hd] at h <;> cases h
  · exact htwIgnored_of_idle w hk
  · rw [(encode_decodeWrite _ _).2, ← hk, htwOf_fields w hr]
  · rw [encode, ← hk, ← hz, htwOf_fields w hr]

/-- Settles O3: the classes by the rules of the decoder, and the row decoded by the fields that each row asks for. -/
theorem decodeClassifiesEveryWord : Obligations.DecodeClassifiesEveryWord := by
  intro w
  refine ⟨?idle, ?write, ?read, ?refused, ?row, ?noRow⟩
  case idle =>
    intro hk
    simp [decode, hk]
  case write =>
    intro hk hr
    have hd := decode_of_write hk hr
    refine ⟨?_, ?_, ?_, ?_, ?_, ?illcmd, ?rxb, ?wr⟩
    case illcmd =>
      intro ha hc
      have hwf : wellFormedIllegalCode (htwData w) = true := by simpa [wellFormedIllegalCode] using hc
      rw [hd, ha, ← decodeCommand_of_wellFormed hwf]
      rfl
    case rxb =>
      intro ha
      rw [hd, ha, decodeWrite_rxd]
    case wr =>
      intro hcmd hrxd
      rw [hd, decodeWrite_of_ne hcmd hrxd]
    all_goals
      intro ha hc
      rw [hd, ha, hc]
      rfl
  case read =>
    intro hk hr hz
    simp [decode, hk, hr, hz]
  case refused =>
    intro hbad
    cases hd : decode w with
    | error e => exact ⟨e, rfl⟩
    | ok i => rcases fields_of_decode_ok hd with hk | ⟨hk, hr⟩ | ⟨hk, hr, hz⟩ <;> simp_all
  case row =>
    intro i hd
    rw [mostSpecificRow_mnemonic, hd]
    rfl
  case noRow =>
    intro e hd
    have hrow := mostSpecificRow_mnemonic w
    rw [hd] at hrow
    exact Option.map_eq_none_iff.mp hrow

/-- Settles O5: the assembler's words are the encoder's. -/
theorem assembledWordsDecode : Obligations.AssembledWordsDecode := by
  refine ⟨asmWr_eq_htwOf, fun a => ?_, fun a d hcmd hrxd => ?_, fun b => ?_⟩
  · rw [asmRd_eq_htwOf, decode_htwOf_read]
  · rw [asmWr_eq_htwOf, decode_htwOf_write, decodeWrite_of_ne hcmd hrxd]
  · rw [asmRxb, asmWr_eq_htwOf, decode_htwOf_write, decodeWrite_rxd]

end

section
/-! SUPPORT. The catalog's ROM image: each word read back field by field, the fields of a descriptor, the descriptors
of a catalog, and the statement about them (spec/30_encoding.md R98, R99). -/

open Sys2Proof Sys2Proof.Machine

namespace Sys2Proof.Machine

/-! ### Fields packed into a word -/

section
variable {m n : Nat}

/-- A field of a packed word reads back. -/
theorem extractLsb'_placed_same (x : BitVec m) {k : Nat} (h : k + m ≤ n) :
    (x.setWidth n <<< k).extractLsb' k m = x := by
  ext i hi
  simp only [BitVec.getElem_extractLsb', BitVec.getLsbD_shiftLeft, BitVec.getLsbD_setWidth]
  simp [show k + i < n by omega, show i < n by omega, BitVec.getLsbD_eq_getElem hi]

/-- A field of a packed word shows nothing of a field that stands apart from it. -/
theorem extractLsb'_placed_apart (x : BitVec m) {j k l : Nat} (h : j + l ≤ k ∨ k + m ≤ j) :
    (x.setWidth n <<< k).extractLsb' j l = 0#l := by
  ext i hi
  simp only [BitVec.getElem_extractLsb', BitVec.getLsbD_shiftLeft, BitVec.getLsbD_setWidth]
  rcases h with h | h
  · simp [show j + i < k by omega]
  · simp [BitVec.getLsbD_of_ge x (j + i - k) (by omega)]

theorem ofNat_eq_setWidth {v : Nat} (hv : v < 2 ^ m) : BitVec.ofNat n v = (BitVec.ofNat m v).setWidth n := by
  apply BitVec.eq_of_toNat_eq
  rw [BitVec.toNat_setWidth, BitVec.toNat_ofNat, BitVec.toNat_ofNat, Nat.mod_eq_of_lt hv]

end

/-! ### One word of the image -/

/-- The field word as its fields side by side (spec/30_encoding.md R99). -/
theorem romFieldWord_eq {f : FieldSpec} (ho : f.off < 2 ^ 8) (hw : f.wid < 2 ^ 3) (hs : f.shift < 2 ^ 6) :
    romFieldWord f =
      f.mant.setWidth 64 <<< 32 ||| f.fmt.setWidth 64 <<< 24 ||| (BitVec.ofNat 6 f.shift).setWidth 64 <<< 12
        ||| (BitVec.ofBool f.sgn).setWidth 64 <<< 11 ||| (BitVec.ofNat 3 f.wid).setWidth 64 <<< 8
        ||| (BitVec.ofNat 8 f.off).setWidth 64 <<< 0 := by
  have hsgn : (if f.sgn then 1#64 else 0#64) = (BitVec.ofBool f.sgn).setWidth 64 := by cases f.sgn <;> rfl
  rw [romFieldWord, ofNat_eq_setWidth ho, ofNat_eq_setWidth hw, ofNat_eq_setWidth hs, hsgn, BitVec.shiftLeft_zero]

/-- A field word gives its field back. -/
theorem romField_romFieldWord {f : FieldSpec} (ho : f.off < 2 ^ 8) (hw : f.wid < 2 ^ 3) (hs : f.shift < 2 ^ 6) :
    romField (romFieldWord f) = .ok f := by
  rw [romFieldWord_eq ho hw hs, romField]
  simp (disch := omega) only [BitVec.extractLsb'_or, BitVec.getLsbD_eq_extractLsb', extractLsb'_placed_apart,
    extractLsb'_placed_same, BitVec.or_zero, BitVec.zero_or, BitVec.toNat_ofNat, Nat.mod_eq_of_lt]
  cases f with
  | mk off wid sgn mant shift fmt => cases sgn <;> rfl

/-- The descriptor word as its fields side by side (spec/30_encoding.md R98). -/
theorem romDescriptorWord_eq {d : Descriptor} (hn : d.fields.length < 2 ^ 8) :
    romDescriptorWord d =
      (BitVec.ofNat 8 d.fields.length).setWidth 32 <<< 24 ||| romLength d.fixed ||| d.opcode.setWidth 32 <<< 0 := by
  rw [romDescriptorWord, ofNat_eq_setWidth hn, BitVec.shiftLeft_zero]

theorem romLength_fixed (n : Byte) : romLength (.fixed n) = n.setWidth 32 <<< 8 := rfl

theorem romLength_anyLength : romLength .anyLength = (1#1).setWidth 32 <<< 16 := rfl

/-- A descriptor word gives its opcode and body length back (R98). -/
theorem romHeader_romDescriptorWord {d : Descriptor} (hn : d.fields.length < 2 ^ 8) :
    romHeader (romDescriptorWord d) = .ok (d.opcode, d.fixed) := by
  rw [romDescriptorWord_eq hn, romHeader]
  cases d.fixed
  all_goals
    simp (disch := omega) only [romLength_fixed, romLength_anyLength, BitVec.extractLsb'_or,
      BitVec.getLsbD_eq_extractLsb', extractLsb'_placed_apart, extractLsb'_placed_same, BitVec.or_zero, BitVec.zero_or]
    rfl

/-- A descriptor word gives the number of its field words (R98). -/
theorem romDescriptorWord_count {d : Descriptor} (hn : d.fields.length < 2 ^ 8) :
    ((romDescriptorWord d).extractLsb' 24 8).toNat = d.fields.length := by
  have hlen : (romLength d.fixed).extractLsb' 24 8 = 0#8 := by
    cases d.fixed with
    | fixed n => rw [romLength_fixed, extractLsb'_placed_apart n (by omega)]
    | anyLength => rfl
  rw [romDescriptorWord_eq hn, BitVec.extractLsb'_or, BitVec.extractLsb'_or, hlen,
    extractLsb'_placed_same _ (by omega), extractLsb'_placed_apart d.opcode (by omega), BitVec.or_zero, BitVec.or_zero,
    BitVec.toNat_ofNat, Nat.mod_eq_of_lt hn]

/-! ### The images of a descriptor and of a catalog -/

/-- The ranges that the words of the image have room for. -/
def RomSized (d : Descriptor) : Prop :=
  d.fields.length < 2 ^ 8 ∧ ∀ f ∈ d.fields, f.off < 2 ^ 8 ∧ f.wid < 2 ^ 3 ∧ f.shift < 2 ^ 6

/-- A well-formed catalog fits its image (spec/44_fields.md R181). -/
theorem romSized_of_catalogWf {c : List Descriptor} (hc : catalogWf c = true) : ∀ d ∈ c, RomSized d := by
  intro d hd
  have hpass : ∀ k, CatalogCheck.passes c k = true := fun k => List.all_eq_true.mp hc k (by cases k <;> decide)
  have hn := List.all_eq_true.mp (hpass .nFields) d hd
  have hw := List.all_eq_true.mp (hpass .width) d hd
  have hs := List.all_eq_true.mp (hpass .shift) d hd
  have hf := List.all_eq_true.mp (hpass .inFrame) d hd
  simp only [List.all_eq_true, Bool.and_eq_true, decide_eq_true_eq] at hn hw hs hf
  refine ⟨by omega, fun f hmem => ?_⟩
  have hwid := hw f hmem
  have hshift := hs f hmem
  have hend : f.off + f.wid ≤ 255 := hf f hmem
  omega

theorem romFields_fieldWords {fs : List FieldSpec}
    (h : ∀ f ∈ fs, f.off < 2 ^ 8 ∧ f.wid < 2 ^ 3 ∧ f.shift < 2 ^ 6) (ws : List RomWord) :
    romFields fs.length ((fs.map fun f => .field (romFieldWord f)) ++ ws) = .ok (fs, ws) := by
  induction fs with
  | nil => rfl
  | cons f fs ih =>
    obtain ⟨⟨ho, hw, hs⟩, hfs⟩ := List.forall_mem_cons.mp h
    simp [romFields, romField_romFieldWord ho hw hs, ih hfs]

theorem romEncode_cons (d : Descriptor) (c : List Descriptor) :
    romEncode (d :: c) =
      .descriptor (romDescriptorWord d) :: ((d.fields.map fun f => .field (romFieldWord f)) ++ romEncode c) := rfl

/-- Each descriptor takes a word of the image at least. -/
theorem length_le_romEncode (c : List Descriptor) : c.length ≤ (romEncode c).length := by
  induction c with
  | nil => exact Nat.le_refl 0
  | cons d c ih =>
    rw [romEncode_cons, List.length_cons, List.length_cons, List.length_append]
    omega

theorem romDescriptors_romEncode {c : List Descriptor} (h : ∀ d ∈ c, RomSized d) {n : Nat} (hn : c.length ≤ n) :
    romDescriptors n (romEncode c) = .ok c := by
  induction c generalizing n with
  | nil => cases n <;> rfl
  | cons d c ih =>
    obtain ⟨⟨hlen, hfs⟩, hc⟩ := List.forall_mem_cons.mp h
    cases n with
    | zero => cases hn
    | succ n =>
      simp [romEncode_cons, romDescriptors, romHeader_romDescriptorWord hlen, romDescriptorWord_count hlen,
        romFields_fieldWords hfs, ih hc (Nat.le_of_succ_le_succ hn)]

theorem no_failure_of_catalogWf {c : List Descriptor} (h : catalogWf c = true) : catalogFailure c = none := by
  simpa [catalogFailure, catalogWf] using h

end Sys2Proof.Machine

/-! ### The statement -/

/-- Settles O6: by induction on the descriptors and on their fields, each word of the image giving back the fields
packed into it. -/
theorem romImageRoundTrip : Obligations.RomImageRoundTrip := by
  intro c hc
  rw [romDecode, romDescriptors_romEncode (romSized_of_catalogWf hc) (length_le_romEncode c)]
  simp only [no_failure_of_catalogWf hc]

end

section
/-! SUPPORT. The words of the assembler's lines run one after the other: a presented write, the writes of consecutive
bytes of a location, and the statements about SEND and SETFX (spec/30_encoding.md R101, R102). -/

open Sys2Proof Sys2Proof.Machine

namespace Sys2Proof.Machine

/-! ### A presented write -/

theorem runWords_nil (s : State) : runWords [] s = .next (s.withPending []) := rfl

/-- A presented write is the bus write (spec/20_memory.md R72). -/
theorem step_asmWr {s : State} (hc : catalogWf s.catalog = true) (a : Addr) (d : Byte) (rest : List HostEvent) :
    step (s.withPending (.transaction (asmWr a d) :: rest)) = memWrite a d (s.withPending rest) := by
  have hd : decode (asmWr a d) = .ok (decodeWrite a d) := decode_htwOf_write a d
  simp only [step, presented, State.withPending_catalog, hc, if_true, State.withPending_pending, hd]
  exact exec_decodeWrite a d _

/-- A run whose first word is a write with a next state is the run of the other words from there. -/
theorem runWords_asmWr {s t : State} {a : Addr} {d : Byte} (hc : catalogWf s.catalog = true)
    (h : ∀ p, memWrite a d (s.withPending p) = .next (t.withPending p)) (ws : List Htw) :
    runWords (asmWr a d :: ws) s = runWords ws t := by
  have hs : step (s.withPending (.transaction (asmWr a d) :: ws.map .transaction)) =
      .next (t.withPending (ws.map .transaction)) := (step_asmWr hc a d _).trans (h _)
  change runSteps (ws.length + 1) (s.withPending (.transaction (asmWr a d) :: ws.map .transaction)) = _
  rw [runSteps, hs]
  rfl

/-! ### Writes of consecutive bytes -/

/-- The bytes `bs` stored one after the other from offset `k` of a location, whose host address is `a`. -/
def State.storeBytes (s : State) (l : Loc) (k a : Nat) : List Byte → State
  | [] => s
  | b :: bs => (s.storeLoc l k a b).storeBytes l (k + 1) (a + 1) bs

theorem State.storeLoc_withPending (s : State) (l : Loc) (k a : Nat) (v : Byte) (p : List HostEvent) :
    (s.withPending p).storeLoc l k a v = (s.storeLoc l k a v).withPending p := by
  cases l <;> rfl

/-- The bus write at offset `k` of an R/W row of the map (R72). -/
theorem memWrite_ofNat_of_region {r : Region} (hr : r ∈ addressMap) (hrw : r.access = .rw) {k : Nat} (hk : k < r.size)
    (v : Byte) (s : State) :
    memWrite (BitVec.ofNat 16 (r.base + k)) v s = .next (s.storeLoc r.loc k (r.base + k) v) := by
  have hplain : ∀ r ∈ addressMap, r.access = .rw → r.loc ≠ .cmd ∧ r.loc ≠ .rxd := by decide
  obtain ⟨hcmd, hrxd⟩ := hplain r hr hrw
  have hend := addressMap_below_2_pow_16 r hr
  have ha : (BitVec.ofNat 16 (r.base + k)).toNat = r.base + k := by
    rw [BitVec.toNat_ofNat, Nat.mod_eq_of_lt (by omega)]
  simp [memWrite, regionOf_eq_some hr (a := BitVec.ofNat 16 (r.base + k)) (by omega) (by omega), hcmd, hrxd, hrw, ha]

/-- The writes of the bytes of an R/W location store them from offset `k` upwards. -/
theorem runWords_asmWrites_from {r : Region} (hr : r ∈ addressMap) (hrw : r.access = .rw) {bs : List Byte} {k : Nat}
    (hlen : k + bs.length ≤ r.size) {s : State} (ws : List Htw) (hc : catalogWf s.catalog = true) :
    runWords (asmWrites (BitVec.ofNat 16 (r.base + k)) bs ++ ws) s =
      runWords ws (s.storeBytes r.loc k (r.base + k) bs) := by
  induction bs generalizing k s with
  | nil => rfl
  | cons b bs ih =>
    rw [List.length_cons] at hlen
    have hfirst : ∀ p, memWrite (BitVec.ofNat 16 (r.base + k)) b (s.withPending p) =
        .next ((s.storeLoc r.loc k (r.base + k) b).withPending p) := fun p => by
      rw [memWrite_ofNat_of_region hr hrw (by omega), State.storeLoc_withPending]
    have hnext : BitVec.ofNat 16 (r.base + k) + 1#16 = BitVec.ofNat 16 (r.base + (k + 1)) := by
      rw [← Nat.add_assoc, BitVec.ofNat_add (r.base + k)]
    rw [asmWrites, List.cons_append, runWords_asmWr hc hfirst, hnext]
    exact ih (by omega) (by rwa [State.storeLoc_catalog])

theorem runWords_asmWrites {r : Region} (hr : r ∈ addressMap) (hrw : r.access = .rw) {bs : List Byte}
    (hlen : bs.length ≤ r.size) {s : State} (ws : List Htw) (hc : catalogWf s.catalog = true) :
    runWords (asmWrites (BitVec.ofNat 16 r.base) bs ++ ws) s = runWords ws (s.storeBytes r.loc 0 r.base bs) :=
  runWords_asmWrites_from hr hrw (k := 0) (by omega) ws hc

/-! ### What the bytes stored make of a location -/

theorem State.storeBytes_ebuf (s : State) (k a : Nat) (bs : List Byte) :
    s.storeBytes .ebuf k a bs = s.setBufBytes a bs := by
  induction bs generalizing s k a with
  | nil => rfl
  | cons b bs ih => exact ih _ _ _

/-- A register is known by its bytes (spec/20_memory.md R74). -/
theorem eq_of_byteOf_eq {n count : Nat} (hn : n ≤ 8 * count) {v w : BitVec n}
    (h : ∀ j, j < count → byteOf v j = byteOf w j) : v = w := by
  have hbytes : leBytes count v = leBytes count w := List.map_congr_left fun j hj => h j (List.mem_range.mp hj)
  apply BitVec.eq_of_toNat_eq
  rw [← leValue_leBytes v count hn, hbytes, leValue_leBytes w count hn]

theorem State.storeBytes_eLen (s : State) (a : Nat) (v : BitVec 16) :
    s.storeBytes .eLen 0 a (leBytes 2 v) = { s with eLen := v } := by
  have hv : withByte (withByte s.eLen 0 (byteOf v 0)) 1 (byteOf v 1) = v := by
    refine eq_of_byteOf_eq (count := 2) (by omega) fun j hj => ?_
    interval_cases j <;> simp [byteOf_withByte]
  exact congrArg (fun x => { s with eLen := x }) hv

theorem State.storeBytes_xMant (s : State) (a : Nat) (v : BitVec 32) :
    s.storeBytes .xMant 0 a (leBytes 4 v) = { s with xMant := v } := by
  have hv : withByte (withByte (withByte (withByte s.xMant 0 (byteOf v 0)) 1 (byteOf v 1)) 2 (byteOf v 2)) 3
      (byteOf v 3) = v := by
    refine eq_of_byteOf_eq (count := 4) (by omega) fun j hj => ?_
    interval_cases j <;> simp [byteOf_withByte]
  exact congrArg (fun x => { s with xMant := x }) hv

/-! ### ENC as a presented word -/

/-- A presented ENC of a body that fits builds its frame (spec/42_encoder.md R140). -/
theorem runWords_enc {s : State} {n : Nat} (hc : catalogWf s.catalog = true) (hn : s.eLen.toNat = n) (hle : n ≤ 255)
    (ws : List Htw) : runWords (asmCommand 0x03#8 :: ws) s = runWords ws (s.encodeRequest n) := by
  subst hn
  refine runWords_asmWr hc (fun p => ?_) ws
  rcases (s.withPending p).encode_cases with ⟨hbig, -⟩ | ⟨-, he⟩
  · exact absurd hbig (Nat.not_lt.mpr hle)
  · exact congrArg Host.Outcome.next he

/-- Bytes written to the buffers read back. -/
theorem State.bufBytes_setBufBytes (s : State) (a : Nat) (bs : List Byte) :
    (s.setBufBytes a bs).bufBytes a bs.length = bs := by
  refine List.ext_getElem? fun i => ?_
  rw [State.bufBytes_getElem?, State.bufByte_setBufBytes]
  by_cases hi : i < bs.length <;> simp [hi]

/-- The frame that ENC builds stands in TXBUF (spec/10_state.md R44). -/
theorem State.txbuf_encodeRequest (s : State) {n i : Nat} (hi : i < n + 5) :
    some ((s.encodeRequest n).txbuf i) = (encodeFrame s.eOpcode (s.requestBody n))[i]? := by
  have hlen : i < (encodeFrame s.eOpcode (s.requestBody n)).length := by
    rwa [encodeFrame_length, State.requestBody_length]
  have hread : (s.encodeRequest n).txbuf i = _ := s.bufByte_setBufBytes (txbufAddr 0) _ (txbufAddr i)
  rw [hread]
  simp [txbufAddr, hlen]

/-! ### SEND up to its ENC -/

/-- The state with the operands of a request in place: its opcode, its body and its length (R102). -/
def State.withRequest (s : State) (op : Byte) (bs : List Byte) : State :=
  { s.setBufBytes (ebufAddr 0) bs with eOpcode := op, eLen := BitVec.ofNat 16 bs.length }

theorem State.withRequest_eLen_toNat (s : State) (op : Byte) {bs : List Byte} (hlen : bs.length ≤ 255) :
    (s.withRequest op bs).eLen.toNat = bs.length :=
  Nat.mod_eq_of_lt (show bs.length < 2 ^ 16 by omega)

theorem State.requestBody_withRequest (s : State) (op : Byte) (bs : List Byte) :
    (s.withRequest op bs).requestBody bs.length = bs :=
  s.bufBytes_setBufBytes (ebufAddr 0) bs

/-- The writes of SEND put its operands in place, and its last word is ENC. -/
theorem runWords_send {s : State} {bs : List Byte} (hc : catalogWf s.catalog = true) (hlen : bs.length ≤ 255)
    (op : Byte) : runWords (AsmLine.send op bs).words s = runWords [asmCommand 0x03#8] (s.withRequest op bs) := by
  have hwords : (AsmLine.send op bs).words = asmWrites 0x0010#16 [op] ++ (asmWrites 0x0300#16 bs ++
      (asmWrites 0x0012#16 (leBytes 2 (BitVec.ofNat 16 bs.length)) ++ [asmCommand 0x03#8])) :=
    congrArg (asmWr 0x0010#16 op :: ·) (List.append_assoc ..)
  rw [hwords, runWords_asmWrites (r := ⟨0x0010, 1, .eOpcode, .rw⟩) (by decide) rfl le_rfl,
    runWords_asmWrites (r := ⟨0x0300, 255, .ebuf, .rw⟩) (by decide) rfl hlen, State.storeBytes_ebuf,
    runWords_asmWrites (r := ⟨0x0012, 2, .eLen, .rw⟩) (by decide) rfl le_rfl, State.storeBytes_eLen]
  · rfl
  all_goals exact hc

end Sys2Proof.Machine

/-! ### The statements -/

/-- Settles O21: the writes put the operands in place, and ENC frames the body that they stored. -/
theorem sendLineBuildsRequest : Obligations.SendLineBuildsRequest := by
  intro s op bs hc hlen
  have hn := s.withRequest_eLen_toNat op hlen
  refine ⟨((s.withRequest op bs).encodeRequest bs.length).withPending [], ?run, rfl, rfl, hn, ?txlen,
    fun i hi => ?frame⟩
  case run => rw [runWords_send hc hlen, runWords_enc (s := s.withRequest op bs) hc hn hlen, runWords_nil]
  case txlen => exact Nat.mod_eq_of_lt (show bs.length + 5 < 2 ^ 16 by omega)
  case frame =>
    have hframe := (s.withRequest op bs).txbuf_encodeRequest hi
    rwa [State.requestBody_withRequest] at hframe

/-- Settles O22: each write stores the bytes of one operand register. -/
theorem setFxLineSetsOperands : Obligations.SetFxLineSetsOperands := by
  intro s off wid sgn shift mant hc
  have hwords : (AsmLine.setFx off wid sgn mant shift).words = asmWrites 0x0020#16 [off] ++
      (asmWrites 0x0021#16 [wid] ++ (asmWrites 0x0022#16 [sgn] ++
        (asmWrites 0x0024#16 (leBytes 4 (BitVec.ofInt 32 mant)) ++ (asmWrites 0x0023#16 [shift] ++ [])))) := rfl
  rw [hwords, runWords_asmWrites (r := ⟨0x0020, 1, .xOff, .rw⟩) (by decide) rfl le_rfl,
    runWords_asmWrites (r := ⟨0x0021, 1, .xWid, .rw⟩) (by decide) rfl le_rfl,
    runWords_asmWrites (r := ⟨0x0022, 1, .xSgn, .rw⟩) (by decide) rfl le_rfl,
    runWords_asmWrites (r := ⟨0x0024, 4, .xMant, .rw⟩) (by decide) rfl le_rfl, State.storeBytes_xMant,
    runWords_asmWrites (r := ⟨0x0023, 1, .xShift, .rw⟩) (by decide) rfl le_rfl]
  · rfl
  all_goals exact hc

end

section
/-! SUPPORT. Where a host write stores and what it changes (spec/40_host_access.md R122, spec/20_memory.md R71, R72),
and the statements about IDLE, WR, ILLCMD and CLR (R120 to R124). -/

open Sys2Proof Sys2Proof.Machine

namespace Sys2Proof.Machine

/-! ### The R/W rows of the address map (R71) -/

/-- The bits of a written byte that an R/W location keeps, the others being RAZ/WI (spec/10_state.md R35, R36). -/
def Loc.writeMask : Loc → Byte
  | .xSgn => 0x01#8
  | .xShift => 0x3F#8
  | .cmd | .arg | .status | .rxst | .rxec | .rxcnt | .rxd | .eOpcode | .eLen | .txlen | .xOff | .xWid
  | .xMant | .xRaw | .xRsh | .xScaled | .fcnt | .rxbuf | .ebuf | .txbuf | .fout => 0xFF#8

/-- The addresses with writable bits are those of the R/W rows: both sides list the same bounds on the address, row by
row. -/
theorem writableBits_eq_some_iff {a : Nat} {m : Byte} :
    writableBits a = some m ↔
      ∃ r ∈ addressMap, r.access = .rw ∧ r.base ≤ a ∧ a < r.base + r.size ∧ r.loc.writeMask = m := by
  simp only [writableBits, addressMap, List.exists_mem_cons_iff, List.not_mem_nil, reduceCtorEq, true_and, false_and,
    false_or, exists_false, or_false, Loc.writeMask]
  grind

/-- A location has one row. -/
theorem region_eq_of_loc_eq : ∀ r ∈ addressMap, ∀ q ∈ addressMap, r.loc = q.loc → r = q := by decide

/-- The R/W rows: two registers of several bytes, one buffer, and registers of one byte. -/
theorem region_rw_cases : ∀ r ∈ addressMap, r.access = .rw →
    (r.loc = .eLen ∧ r.size = 2) ∨ (r.loc = .xMant ∧ r.size = 4) ∨ r.loc = .ebuf ∨
      r.size = 1 ∧ (r.loc = .arg ∨ r.loc = .eOpcode ∨ r.loc = .xOff ∨ r.loc = .xWid ∨ r.loc = .xSgn ∨
        r.loc = .xShift) := by decide

/-! ### The bus write outside CMD and RXD (R72) -/

/-- A bus write to an R/W row stores its byte. -/
theorem memWrite_of_region {r : Region} (hr : r ∈ addressMap) (hrw : r.access = .rw) {a : Addr}
    (hlo : r.base ≤ a.toNat) (hhi : a.toNat < r.base + r.size) (v : Byte) (s : State) :
    memWrite a v s = .next (s.storeLoc r.loc (a.toNat - r.base) a.toNat v) := by
  have h := memWrite_ofNat_of_region hr hrw (k := a.toNat - r.base) (by omega) v s
  rwa [Nat.add_sub_cancel' hlo, BitVec.ofNat_toNat, BitVec.setWidth_eq] at h

/-- A bus write to any other address but CMD and RXD is ignored. -/
theorem memWrite_of_not_writable {a : Addr} (hcmd : a ≠ 0x0000#16) (hrxd : a ≠ 0x0008#16)
    (hw : writableBits a.toNat = none) (v : Byte) (s : State) : memWrite a v s = .next s := by
  cases hreg : regionOf a with
  | none => simp [memWrite, hreg]
  | some r =>
    obtain ⟨hr, hlo, hhi⟩ := regionOf_spec hreg
    have hrw : r.access ≠ .rw := fun h => by
      simpa [hw] using writableBits_eq_some_iff.mpr ⟨r, hr, h, hlo, hhi, rfl⟩
    have hlcmd : r.loc ≠ .cmd := fun h => by
      obtain rfl := region_eq_of_loc_eq r hr ⟨0x0000, 1, .cmd, .w⟩ (by decide) h
      exact hcmd (BitVec.eq_of_toNat_eq (Nat.le_antisymm (Nat.le_of_lt_succ hhi) hlo))
    have hlrxd : r.loc ≠ .rxd := fun h => by
      obtain rfl := region_eq_of_loc_eq r hr ⟨0x0008, 1, .rxd, .w⟩ (by decide) h
      exact hrxd (BitVec.eq_of_toNat_eq (Nat.le_antisymm (Nat.le_of_lt_succ hhi) hlo))
    simp [memWrite, hreg, hlcmd, hlrxd, hrw]

/-! ### The byte stored and what else the state shows (R122) -/

section
variable (s : State) (l : Loc) (k a : Nat) (v : Byte)

@[simp] theorem State.storeLoc_pending : (s.storeLoc l k a v).pending = s.pending := by cases l <;> rfl
@[simp] theorem State.storeLoc_reads : (s.storeLoc l k a v).reads = s.reads := by cases l <;> rfl
@[simp] theorem State.storeLoc_epoch : (s.storeLoc l k a v).epoch = s.epoch := by cases l <;> rfl

end

/-- X_SGN shows bit 0 of the byte written (spec/10_state.md R35). -/
theorem sgn_byte_eq_and (v : Byte) : (if v.getLsbD 0 then 0x01#8 else 0x00#8) = v &&& 0x01#8 := by
  revert v
  decide

/-- X_SHIFT shows bits [5:0] of the byte written (spec/10_state.md R36). -/
theorem shift_byte_eq_and (v : Byte) : (v.setWidth 6).setWidth 8 = v &&& 0x3F#8 := by
  revert v
  decide

/-- An R/W location shows the byte stored, without the bits that it does not have. -/
theorem State.locByte_storeLoc_same {r : Region} (hr : r ∈ addressMap) (hrw : r.access = .rw) {k : Nat}
    (hk : k < r.size) (s : State) (a : Nat) (v : Byte) :
    (s.storeLoc r.loc k a v).locByte r.loc k a = v &&& r.loc.writeMask := by
  have hwhole : v = v &&& 0xFF#8 := BitVec.and_allOnes.symm
  rcases region_rw_cases r hr hrw with ⟨hl, h2⟩ | ⟨hl, h4⟩ | hl | ⟨-, hl | hl | hl | hl | hl | hl⟩ <;> rw [hl]
  · exact ((byteOf_withByte s.eLen k k v (by omega) (by omega)).trans (if_pos rfl)).trans hwhole
  · exact ((byteOf_withByte s.xMant k k v (by omega) (by omega)).trans (if_pos rfl)).trans hwhole
  · exact ((s.bufByte_setBufByte a v a).trans (if_pos rfl)).trans hwhole
  · exact hwhole
  · exact hwhole
  · exact hwhole
  · exact hwhole
  · exact sgn_byte_eq_and v
  · exact shift_byte_eq_and v

/-- The address written reads the byte without the bits that its location does not have. -/
theorem memRead_storeLoc_same {r : Region} (hr : r ∈ addressMap) (hrw : r.access = .rw) {a : Addr}
    (hlo : r.base ≤ a.toNat) (hhi : a.toNat < r.base + r.size) (v : Byte) (s : State) :
    memRead a (s.storeLoc r.loc (a.toNat - r.base) a.toNat v) = v &&& r.loc.writeMask := by
  rw [memRead_of_region hr hlo hhi, if_neg (by simp [hrw]), State.locByte_storeLoc_same hr hrw (by omega)]

/-- Every other address reads as before: it shows another location, or another byte of the one written. -/
theorem memRead_storeLoc_of_ne {r : Region} (hr : r ∈ addressMap) (hrw : r.access = .rw) {a b : Addr}
    (hlo : r.base ≤ a.toNat) (hhi : a.toNat < r.base + r.size) (hba : b ≠ a) (v : Byte) (s : State) :
    memRead b (s.storeLoc r.loc (a.toNat - r.base) a.toNat v) = memRead b s := by
  have hne : a.toNat ≠ b.toNat := fun h => hba (BitVec.eq_of_toNat_eq h.symm)
  cases hreg : regionOf b with
  | none => simp [memRead, hreg]
  | some q =>
    obtain ⟨hq, hqlo, hqhi⟩ := regionOf_spec hreg
    rw [memRead_of_region hq hqlo hqhi, memRead_of_region hq hqlo hqhi, State.locByte_storeLoc_of_ne s v hne]
    by_cases hloc : r.loc = q.loc
    · obtain rfl := region_eq_of_loc_eq r hr q hq hloc
      rcases region_rw_cases r hr hrw with ⟨hl, h2⟩ | ⟨hl, h4⟩ | hl | ⟨h1, -⟩
      · exact .inr (.inr (.inl ⟨hl, by omega⟩))
      · exact .inr (.inr (.inr ⟨hl, by omega⟩))
      · exact .inr (.inl (hl ▸ rfl))
      · omega
    · exact .inl hloc

end Sys2Proof.Machine

/-! ### The statements -/

/-- Settles O17: an address with writable bits lies in an R/W row, where the write stores the byte and nothing else; at
any other address but CMD and RXD the write is ignored. -/
theorem writeStoresOnlyItsByte : Obligations.WriteStoresOnlyItsByte := by
  intro a d s hcmd hrxd
  have hdecode : decode (htwOf 0b01#2 a d) = .ok (.wr a d) := by
    rw [decode_htwOf_write, decodeWrite_of_ne hcmd hrxd]
  refine ⟨hdecode, ?_⟩
  cases hw : writableBits a.toNat with
  | none => exact ⟨s, memWrite_of_not_writable hcmd hrxd hw d s, by simp [SameOutside]⟩
  | some m =>
    obtain ⟨r, hr, hrw, hlo, hhi, rfl⟩ := writableBits_eq_some_iff.mp hw
    refine ⟨_, memWrite_of_region hr hrw hlo hhi d s, ?same, by simp,
      fun b hb => memRead_storeLoc_of_ne hr hrw hlo hhi hb d s, ?_, ?_, ?_, ?_, ?_, ?_, ?_, ?_, ?outside⟩
    case same =>
      rintro _ ⟨⟩
      exact memRead_storeLoc_same hr hrw hlo hhi d s
    case outside =>
      intro x hx
      rw [State.bufByte_storeLoc, if_neg (by omega)]
    all_goals simp

/-- Settles O13: a word of KIND 00 is the idle word of its other bits. -/
theorem idleChangesNothing : Obligations.IdleChangesNothing := by
  refine ⟨fun w hk => ⟨htwIgnored w, ?_⟩, fun _ _ => rfl⟩
  conv_lhs => rw [← htwIgnored_of_idle w hk]
  exact decode_idleWord (htwIgnored w)

/-- Settles O19: the code names no command, and the transaction it decodes to only raises IllegalCommand. -/
theorem illegalCommandSetsOnlyStatus : Obligations.IllegalCommandSetsOnlyStatus := by
  intro c s hc
  have hwf : wellFormedIllegalCode c = true := by simpa [wellFormedIllegalCode] using hc
  have hdecode : decode (htwOf 0b01#2 0x0000#16 c) = .ok (.illcmd c) :=
    (decode_htwOf_write 0x0000#16 c).trans (congrArg _ (decodeCommand_of_wellFormed hwf))
  exact ⟨hdecode, rfl, rfl⟩

/-- Settles O20: `State.clear` writes the fields named, and no buffer byte is among them. -/
theorem clearResetsReceiver : Obligations.ClearResetsReceiver :=
  ⟨decode_htwOf_write 0x0000#16 0x01#8, fun s =>
    ⟨s.clear, rfl, rfl, State.bufByte_congr rfl rfl, rfl, BitVec.eq_of_toNat_eq s.clear.rxstByte_toNat, rfl⟩⟩

end

section
/-! SUPPORT. CK8 as a sum of bytes, and the statement about it (spec/41_checksum.md R130). -/

open Sys2Proof Sys2Proof.Machine

namespace Sys2Proof.Machine

theorem ck8_eq_sum (l : List Byte) : ck8 l = l.sum := List.sum_eq_foldl.symm

theorem ck8_cons (b : Byte) (l : List Byte) : ck8 (b :: l) = b + ck8 l := by
  rw [ck8_eq_sum, ck8_eq_sum, List.sum_cons]

theorem ck8_toNat (l : List Byte) : (ck8 l).toNat = (l.map BitVec.toNat).sum % 256 := by
  induction l with
  | nil => rfl
  | cons b l ih => rw [ck8_cons, BitVec.toNat_add, ih, List.map_cons, List.sum_cons, Nat.add_mod_mod]

theorem ck8_perm {l l' : List Byte} (h : l.Perm l') : ck8 l = ck8 l' := by
  rw [ck8_eq_sum, ck8_eq_sum, h.sum_eq]

/-- A sum changes when exactly one of its bytes changes (spec/41_checksum.md R135). -/
theorem ck8_modify_ne {f : Byte → Byte} (hf : ∀ b, f b ≠ b) {l : List Byte} {i : Nat} (hi : i < l.length) :
    ck8 (l.modify i f) ≠ ck8 l := by
  induction l generalizing i with
  | nil => cases hi
  | cons b l ih =>
    cases i with
    | zero => simpa [ck8_cons] using hf b
    | succ i => simpa [ck8_cons] using ih (Nat.lt_of_succ_lt_succ hi)

end Sys2Proof.Machine

/-! ### The statement -/

/-- Settles O23: CK8 is the sum of a list, which no permutation changes. -/
theorem checksumIsModularSum : Obligations.ChecksumIsModularSum :=
  ⟨ck8_toNat, ck8_nil, fun _ _ => ck8_perm⟩

end

section
/-! SUPPORT. The byte-serial receiver follows the whole-sequence contract: the verdicts of DecodeFrame one by one, and
where the receiver stands after any byte sequence (spec/43_receiver.md R150 to R155). -/

open Sys2Proof Sys2Proof.Machine

namespace Sys2Proof.Machine

/-! ### The parts of a byte sequence read as a frame (R150) -/

/-- The body length that a byte sequence announces. -/
def seqLength (raw : List Byte) : Nat := (seqByte raw 2).toNat

/-- The body bytes of a sequence that holds a whole frame. -/
def seqBody (raw : List Byte) : List Byte := (raw.drop 4).take (seqLength raw)

/-- The frame that a sequence starts with. -/
def seqFrame (raw : List Byte) : Frame :=
  { startMarker := seqByte raw 0, opcode := seqByte raw 1, bodyLength := seqByte raw 2,
    headerChecksum := seqByte raw 3, body := seqBody raw, bodyChecksum := seqByte raw (4 + seqLength raw) }

/-- The four header bytes have arrived and verify. -/
structure HeaderGood (m : Byte) (raw : List Byte) : Prop where
  arrived : 4 ≤ raw.length
  marker : seqByte raw 0 = m
  checksum : seqByte raw 3 = ck8 [seqByte raw 1, seqByte raw 2]

/-- The verdicts of `DecodeFrame`, each with the checks that lead to it. -/
inductive FrameOutcome (m : Byte) (raw : List Byte) : FrameVerdict → Prop
  | short (hl : raw.length < 4) : FrameOutcome m raw (.fail .truncatedFrame)
  | badAck (hl : 4 ≤ raw.length) (h0 : seqByte raw 0 ≠ m) : FrameOutcome m raw (.fail .badAck)
  | badHeader (hl : 4 ≤ raw.length) (h0 : seqByte raw 0 = m)
      (h3 : seqByte raw 3 ≠ ck8 [seqByte raw 1, seqByte raw 2]) : FrameOutcome m raw (.fail .badHeaderChecksum)
  | incomplete (hh : HeaderGood m raw) (hl : raw.length < 5 + seqLength raw) :
      FrameOutcome m raw (.fail .truncatedFrame)
  | badBody (hh : HeaderGood m raw) (hl : 5 + seqLength raw ≤ raw.length)
      (hb : seqByte raw (4 + seqLength raw) ≠ ck8 (seqBody raw)) : FrameOutcome m raw (.fail .badBodyChecksum)
  | accept (hh : HeaderGood m raw) (hl : 5 + seqLength raw ≤ raw.length)
      (hb : seqByte raw (4 + seqLength raw) = ck8 (seqBody raw)) :
      FrameOutcome m raw (.accept (seqFrame raw) (5 + seqLength raw))

theorem decodeFrame_outcome (m : Byte) (raw : List Byte) : FrameOutcome m raw (decodeFrame m raw) := by
  unfold decodeFrame
  split
  case isTrue hl => exact .short hl
  case isFalse hl =>
  have hl : 4 ≤ raw.length := Nat.le_of_not_lt hl
  split
  case isTrue h0 => exact .badAck hl h0
  case isFalse h0 =>
  have h0 := not_not.mp h0
  split
  case isTrue h3 => exact .badHeader hl h0 h3
  case isFalse h3 =>
  have hh : HeaderGood m raw := ⟨hl, h0, not_not.mp h3⟩
  dsimp only
  split
  case isTrue hlen => exact .incomplete hh hlen
  case isFalse hlen =>
  have hlen := Nat.le_of_not_lt hlen
  split
  case isTrue hb => exact .badBody hh hlen hb
  case isFalse hb => exact .accept hh hlen (not_not.mp hb)

/-- After a verified header the length and the body checksum decide. -/
theorem HeaderGood.decodeFrame_eq {m : Byte} {raw : List Byte} (h : HeaderGood m raw) :
    decodeFrame m raw =
      if raw.length < 5 + seqLength raw then .fail .truncatedFrame
      else if seqByte raw (4 + seqLength raw) ≠ ck8 (seqBody raw) then .fail .badBodyChecksum
      else .accept (seqFrame raw) (5 + seqLength raw) := by
  obtain ⟨h4, h0, h3⟩ := h
  rw [decodeFrame, if_neg (Nat.not_lt.mpr h4), if_neg (not_not.mpr h0), if_neg (not_not.mpr h3)]
  rfl

/-- The checks exclude each other, so a sequence has one verdict. -/
theorem FrameOutcome.decodeFrame_eq {m : Byte} {raw : List Byte} {v : FrameVerdict} (h : FrameOutcome m raw v) :
    decodeFrame m raw = v := by
  cases h with
  | short hl => rw [decodeFrame, if_pos hl]
  | badAck hl h0 => rw [decodeFrame, if_neg (Nat.not_lt.mpr hl), if_pos h0]
  | badHeader hl h0 h3 => rw [decodeFrame, if_neg (Nat.not_lt.mpr hl), if_neg (not_not.mpr h0), if_pos h3]
  | incomplete hh hl => rw [hh.decodeFrame_eq, if_pos hl]
  | badBody hh hl hb => rw [hh.decodeFrame_eq, if_neg (Nat.not_lt.mpr hl), if_pos hb]
  | accept hh hl hb => rw [hh.decodeFrame_eq, if_neg (Nat.not_lt.mpr hl), if_neg (not_not.mpr hb)]

/-! ### One more byte at the end -/

section
variable {m : Byte} {raw : List Byte}

theorem seqLength_le (raw : List Byte) : seqLength raw ≤ 255 := Nat.le_of_lt_succ (seqByte raw 2).isLt

theorem seqByte_append_of_lt {i : Nat} (hi : i < raw.length) (b : Byte) : seqByte (raw ++ [b]) i = seqByte raw i :=
  List.getD_append raw [b] _ i hi

theorem seqByte_append_length (raw : List Byte) (b : Byte) : seqByte (raw ++ [b]) raw.length = b := by
  simp [seqByte]

theorem seqLength_append (h4 : 4 ≤ raw.length) (b : Byte) : seqLength (raw ++ [b]) = seqLength raw :=
  congrArg BitVec.toNat (seqByte_append_of_lt (by omega) b)

theorem seqBody_append (h4 : 4 ≤ raw.length) (hl : 4 + seqLength raw ≤ raw.length) (b : Byte) :
    seqBody (raw ++ [b]) = seqBody raw := by
  rw [seqBody, seqLength_append h4, List.drop_append_of_le_length h4,
    List.take_append_of_le_length (by rw [List.length_drop]; omega), seqBody]

theorem seqFrame_append (h4 : 4 ≤ raw.length) (hl : 5 + seqLength raw ≤ raw.length) (b : Byte) :
    seqFrame (raw ++ [b]) = seqFrame raw := by
  rw [seqFrame, seqLength_append h4, seqBody_append h4 (by omega)]
  repeat rw [seqByte_append_of_lt (by omega)]
  rfl

theorem HeaderGood.append (h : HeaderGood m raw) (b : Byte) : HeaderGood m (raw ++ [b]) := by
  obtain ⟨h4, h0, h3⟩ := h
  refine ⟨by rw [List.length_append]; omega, ?_, ?_⟩
  all_goals
    repeat rw [seqByte_append_of_lt (by omega)]
    assumption

/-- A verdict other than TruncatedFrame stays whatever follows (R150). -/
theorem FrameOutcome.append {v : FrameVerdict} (h : FrameOutcome m raw v) (hv : v ≠ .fail .truncatedFrame)
    (b : Byte) : FrameOutcome m (raw ++ [b]) v := by
  have hlen : (raw ++ [b]).length = raw.length + 1 := List.length_append
  cases h with
  | short | incomplete => exact absurd rfl hv
  | badAck h4 h0 => exact .badAck (by omega) (by rwa [seqByte_append_of_lt (by omega)])
  | badHeader h4 h0 h3 =>
    refine .badHeader (by omega) ?_ ?_
    all_goals
      repeat rw [seqByte_append_of_lt (by omega)]
      assumption
  | badBody hh hl hb =>
    have hn := seqLength_append hh.arrived b
    refine .badBody (hh.append b) (by omega) ?_
    rwa [hn, seqByte_append_of_lt (by omega), seqBody_append hh.arrived (by omega)]
  | accept hh hl hb =>
    have hn := seqLength_append hh.arrived b
    rw [← seqFrame_append hh.arrived hl b, ← hn]
    refine .accept (hh.append b) (by omega) ?_
    rwa [hn, seqByte_append_of_lt (by omega), seqBody_append hh.arrived (by omega)]

/-- A verdict consumes bytes that have arrived (R155). -/
theorem FrameOutcome.consumedBytes_le {v : FrameVerdict} (h : FrameOutcome m raw v) :
    consumedBytes raw v ≤ raw.length := by
  cases h with
  | short | incomplete => exact le_rfl
  | badAck h4 | badHeader h4 => exact h4
  | badBody _ hl | accept _ hl => exact hl

/-- A verdict other than TruncatedFrame consumes no more when other bytes follow (R155). -/
theorem FrameOutcome.consumedBytes_append {v : FrameVerdict} (h : FrameOutcome m raw v)
    (hv : v ≠ .fail .truncatedFrame) (b : Byte) : consumedBytes (raw ++ [b]) v = consumedBytes raw v := by
  cases h with
  | short | incomplete => exact absurd rfl hv
  | badAck | badHeader | accept => rfl
  | badBody hh => exact congrArg (5 + ·) (seqLength_append hh.arrived b)

end

/-! ### The receive step forwards (R152) -/

theorem receiveByte_closed {s : State} (hs : s.rxState = .done ∨ s.rxState = .err) (b : Byte) :
    receiveByte b s = .next s.dropReceived := by
  rcases hs with hs | hs <;> simp only [receiveByte, hs]

theorem receiveByte_header {s : State} (hs : s.rxState = .idle ∨ s.rxState = .hdr) (hn : s.rxcnt.toNat < 260)
    (b : Byte) : receiveByte b s = .next (s.receiveHeaderByte b) := by
  rcases hs with hs | hs <;> simp only [receiveByte, hs, storingStep, if_pos hn]

theorem receiveByte_body {s : State} (hs : s.rxState = .body) (hn : s.rxcnt.toNat < 260) (b : Byte) :
    receiveByte b s = .next (s.receiveBodyByte b) := by
  simp only [receiveByte, hs, storingStep, if_pos hn]

theorem receiveByte_checksum {s : State} (hs : s.rxState = .ckb) (hn : s.rxcnt.toNat < 260) (b : Byte) :
    receiveByte b s = .next (s.receiveChecksumByte b) := by
  simp only [receiveByte, hs, storingStep, if_pos hn]

theorem State.receiveBodyByte_eq (s : State) (b : Byte) :
    s.receiveBodyByte b =
      s.receiveWith b
        (if (s.storeReceived b).rxcnt.toNat = 4 + (s.storeReceived b).frameLength then .ckb else .body)
        s.rxec (s.rxsum + b) .ok := rfl

/-! ### The receiver after a byte sequence (R155) -/

/-- The FSM state in which a sequence leaves the receiver when it is no whole frame and has not failed. -/
def openState (raw : List Byte) : RxState :=
  if raw.length = 0 then .idle
  else if raw.length < 4 then .hdr
  else if raw.length < 4 + seqLength raw then .body
  else .ckb

/-- The FSM state in which a sequence with this verdict leaves the receiver. -/
def verdictState (raw : List Byte) : FrameVerdict → RxState
  | .accept _ _ => .done
  | .fail .truncatedFrame => openState raw
  | .fail _ => .err

theorem verdictState_fail {raw : List Byte} {e : StatusCode} (he : e ≠ .truncatedFrame) :
    verdictState raw (.fail e) = .err := by
  cases e with
  | truncatedFrame => exact absurd rfl he
  | _ => rfl

/-- Past the header the body is received, and then its checksum byte. -/
theorem openState_of_arrived {raw : List Byte} (h4 : 4 ≤ raw.length) :
    openState raw = if raw.length < 4 + seqLength raw then .body else .ckb := by
  rw [openState, if_neg (by omega), if_neg (by omega)]

/-- The header of an empty body waits for the checksum byte, another for its body. -/
theorem openState_of_header {raw : List Byte} (hl : raw.length = 4) :
    openState raw = if seqByte raw 2 = 0x00#8 then .ckb else .body := by
  have hz : seqByte raw 2 = 0x00#8 ↔ seqLength raw = 0 := BitVec.toNat_inj.symm
  rw [openState_of_arrived hl.ge]
  by_cases h0 : seqLength raw = 0
  · rw [if_neg (by omega), if_pos (hz.mpr h0)]
  · rw [if_pos (by omega), if_neg (mt hz.mp h0)]

/-- Where the receiver stands when the bytes `raw`, of verdict `v`, have arrived from state `s`. -/
structure ReceiverAfter (s : State) (raw : List Byte) (v : FrameVerdict) (t : State) : Prop where
  verdict : FrameOutcome s.respMarker raw v
  marker : t.respMarker = s.respMarker
  count : t.rxcnt.toNat = consumedBytes raw v
  stored : ∀ i, i < t.rxcnt.toNat → t.rxbuf i = seqByte raw i
  state : t.rxState = verdictState raw v
  sum : v = .fail .truncatedFrame → 4 ≤ raw.length → t.rxsum = ck8 (raw.drop 4)
  code : ∀ e, v = .fail e → e ≠ .truncatedFrame → t.rxec = e
  dropped : t.rxx = true ↔ s.rxx = true ∨ t.rxcnt.toNat < raw.length

theorem receiverAfter_nil {s : State} (hs : s.rxState = .idle) (hc : s.rxcnt.toNat = 0) :
    ReceiverAfter s [] (.fail .truncatedFrame) s where
  verdict := .short (by decide)
  marker := rfl
  count := hc
  stored i hi := by omega
  state := hs
  sum _ h4 := absurd h4 (by decide)
  code e he hne := absurd (FrameVerdict.fail.inj he).symm hne
  dropped := by simp

section
variable {s t : State} {raw : List Byte} {b : Byte}

/-- An incomplete frame fits in RXBUF with a byte to spare, and all its bytes are stored. -/
theorem ReceiverAfter.open_count (h : ReceiverAfter s raw (.fail .truncatedFrame) t) :
    t.rxcnt.toNat = raw.length ∧ t.rxcnt.toNat < 260 := by
  have hc : t.rxcnt.toNat = raw.length := h.count
  have hle := seqLength_le raw
  cases h.verdict with
  | short hl => omega
  | incomplete _ hl => omega

/-- RXBUF holds the sequence with the stored byte at its end. -/
theorem ReceiverAfter.rxbuf_storeReceived (h : ReceiverAfter s raw (.fail .truncatedFrame) t) (b : Byte) {i : Nat}
    (hi : i < raw.length + 1) : (t.storeReceived b).rxbuf i = seqByte (raw ++ [b]) i := by
  obtain ⟨hc, -⟩ := h.open_count
  rcases Nat.lt_succ_iff_lt_or_eq.mp hi with hi | rfl
  · rw [State.rxbuf_storeReceived_of_lt (by omega), h.stored i (by omega), seqByte_append_of_lt hi]
  · rw [← hc, State.rxbuf_storeReceived_rxcnt, hc, seqByte_append_length]

/-- A byte stored with the registers that the verdict on the longer sequence asks for. -/
theorem ReceiverAfter.store (h : ReceiverAfter s raw (.fail .truncatedFrame) t) {v : FrameVerdict} {q : RxState}
    {c e : StatusCode} {sum : Byte} (hv : FrameOutcome s.respMarker (raw ++ [b]) v)
    (hcnt : consumedBytes (raw ++ [b]) v = raw.length + 1) (hq : q = verdictState (raw ++ [b]) v)
    (hsum : v = .fail .truncatedFrame → 4 ≤ raw.length + 1 → sum = ck8 ((raw ++ [b]).drop 4))
    (hcode : ∀ e, v = .fail e → e ≠ .truncatedFrame → c = e) :
    ReceiverAfter s (raw ++ [b]) v (t.receiveWith b q c sum e) := by
  obtain ⟨hc, hn⟩ := h.open_count
  have hlen : (raw ++ [b]).length = raw.length + 1 := List.length_append
  have hcount : (t.receiveWith b q c sum e).rxcnt.toNat = raw.length + 1 := by
    rw [← hc]; exact t.storeReceived_rxcnt_toNat b hn
  refine ⟨hv, h.marker, hcount.trans hcnt.symm, fun i hi => ?_, hq, fun hv h4 => hsum hv (hlen ▸ h4), hcode, ?_⟩
  · exact h.rxbuf_storeReceived b (hcount ▸ hi)
  · rw [hcount, hlen]
    exact h.dropped.trans (by rw [hc]; simp)

/-- A byte that does not yet decide the frame is stored. -/
theorem ReceiverAfter.storeOpen (h : ReceiverAfter s raw (.fail .truncatedFrame) t) {q : RxState} {c e : StatusCode}
    {sum : Byte} (hv : FrameOutcome s.respMarker (raw ++ [b]) (.fail .truncatedFrame)) (hq : q = openState (raw ++ [b]))
    (hsum : 4 ≤ raw.length + 1 → sum = ck8 ((raw ++ [b]).drop 4)) :
    ReceiverAfter s (raw ++ [b]) (.fail .truncatedFrame) (t.receiveWith b q c sum e) :=
  h.store hv List.length_append hq (fun _ => hsum) fun _ he hne => absurd (FrameVerdict.fail.inj he).symm hne

/-- A byte that fails the frame is stored. -/
theorem ReceiverAfter.storeFail (h : ReceiverAfter s raw (.fail .truncatedFrame) t) {e : StatusCode}
    (hv : FrameOutcome s.respMarker (raw ++ [b]) (.fail e))
    (hcnt : raw.length + 1 = consumedBytes (raw ++ [b]) (.fail e))
    (he : e ≠ .truncatedFrame) : ReceiverAfter s (raw ++ [b]) (.fail e) ((t.storeReceived b).rxFail e) :=
  h.store (q := .err) hv hcnt.symm (verdictState_fail he).symm (fun ht => absurd (FrameVerdict.fail.inj ht) he)
    fun _ he' _ => FrameVerdict.fail.inj he'

/-- A byte after the frame is decided is dropped (R158). -/
theorem ReceiverAfter.drop {v : FrameVerdict} (h : ReceiverAfter s raw v t) (hv : v ≠ .fail .truncatedFrame)
    (b : Byte) : ReceiverAfter s (raw ++ [b]) v t.dropReceived := by
  have hc : t.rxcnt.toNat ≤ raw.length := h.count.trans_le h.verdict.consumedBytes_le
  have hcount : t.rxcnt.toNat = consumedBytes (raw ++ [b]) v :=
    h.count.trans (h.verdict.consumedBytes_append hv b).symm
  refine ⟨h.verdict.append hv b, h.marker, hcount, fun i hi => ?_, ?_, fun ht => absurd ht hv, h.code, ?_⟩
  · rw [seqByte_append_of_lt (Nat.lt_of_lt_of_le hi hc)]
    exact h.stored i hi
  · rw [State.dropReceived_rxState, h.state]
    cases h.verdict with
    | short | incomplete => exact absurd rfl hv
    | badAck | badHeader | badBody | accept => rfl
  · exact iff_of_true rfl (.inr (by rw [List.length_append]; exact Nat.lt_succ_of_le hc))

/-- The receiver is closed once the frame is decided. -/
theorem ReceiverAfter.closed {v : FrameVerdict} (h : ReceiverAfter s raw v t) (hv : v ≠ .fail .truncatedFrame) :
    t.rxState = .done ∨ t.rxState = .err := by
  rw [h.state]
  cases h.verdict with
  | short | incomplete => exact absurd rfl hv
  | accept => exact .inl rfl
  | badAck | badHeader | badBody => exact .inr rfl

/-- One of the first three bytes. -/
theorem ReceiverAfter.receive_early (h : ReceiverAfter s raw (.fail .truncatedFrame) t) (hl : raw.length < 3) :
    ReceiverAfter s (raw ++ [b]) (.fail .truncatedFrame) (t.receiveHeaderByte b) := by
  obtain ⟨hc, hn⟩ := h.open_count
  have hlen : (raw ++ [b]).length = raw.length + 1 := List.length_append
  rcases t.receiveHeaderByte_cases b hn with ⟨-, ht⟩ | ⟨h3, -⟩
  · have hq : .hdr = openState (raw ++ [b]) := by rw [openState, hlen, if_neg (by omega), if_pos (by omega)]
    rw [ht]
    exact h.storeOpen (.short (by omega)) hq fun h4 => by omega
  · omega

/-- The fourth byte brings the verdict on the header (R153). -/
theorem ReceiverAfter.receive_fourth (h : ReceiverAfter s raw (.fail .truncatedFrame) t) (hl : raw.length = 3) :
    ∃ v, ReceiverAfter s (raw ++ [b]) v (t.receiveHeaderByte b) := by
  obtain ⟨hc, hn⟩ := h.open_count
  have hlen' : raw.length + 1 = 4 := congrArg (· + 1) hl
  have hlen : (raw ++ [b]).length = 4 := List.length_append.trans hlen'
  have hbuf : ∀ i, i < 4 → (t.storeReceived b).rxbuf i = seqByte (raw ++ [b]) i := fun i hi =>
    h.rxbuf_storeReceived b (by omega)
  have hmark : (t.storeReceived b).respMarker = s.respMarker := h.marker
  rcases t.receiveHeaderByte_cases b hn with ⟨h3, -⟩ | ⟨-, ht⟩
  · omega
  rw [ht]
  rcases (t.storeReceived b).judgeHeader_cases with ⟨h0, hj⟩ | ⟨h0, h3, hj⟩ | ⟨h0, h3, hj⟩ <;> rw [hj]
  all_goals rw [hbuf 0 (by omega), hmark] at h0
  · exact ⟨_, h.storeFail (.badAck hlen.ge h0) hlen' nofun⟩
  all_goals rw [hbuf 1 (by omega), hbuf 2 (by omega), hbuf 3 (by omega)] at h3
  · exact ⟨_, h.storeFail (.badHeader hlen.ge h0 h3) hlen' nofun⟩
  · refine ⟨_, h.storeOpen (.incomplete ⟨hlen.ge, h0, h3⟩ (by omega)) ?_ fun _ => ?_⟩
    · rw [hbuf 2 (by omega), openState_of_header hlen]
    · rw [List.drop_of_length_le hlen.le]; rfl

/-- A body byte is added to the running sum. -/
theorem ReceiverAfter.receive_body (h : ReceiverAfter s raw (.fail .truncatedFrame) t)
    (hh : HeaderGood s.respMarker raw) (hl : raw.length < 4 + seqLength raw) :
    ReceiverAfter s (raw ++ [b]) (.fail .truncatedFrame) (t.receiveBodyByte b) := by
  obtain ⟨hc, hn⟩ := h.open_count
  have h4 := hh.arrived
  have hlen : (raw ++ [b]).length = raw.length + 1 := List.length_append
  have hcnt := t.storeReceived_rxcnt_toNat b hn
  have hn' : seqLength (raw ++ [b]) = seqLength raw := seqLength_append h4 b
  have hfl : (t.storeReceived b).frameLength = seqLength (raw ++ [b]) :=
    congrArg BitVec.toNat (h.rxbuf_storeReceived b (by omega))
  rw [State.receiveBodyByte_eq]
  refine h.storeOpen (.incomplete (hh.append b) (by omega)) ?_ fun _ => ?_
  · rw [hfl, hcnt, openState_of_arrived (by omega), hlen]
    by_cases hend : raw.length + 1 = 4 + seqLength raw
    · rw [if_pos (by omega), if_neg (by omega)]
    · rw [if_neg (by omega), if_pos (by omega)]
  · rw [List.drop_append_of_le_length h4, ck8_append_singleton, ← h.sum rfl h4]

/-- The checksum byte decides the frame. -/
theorem ReceiverAfter.receive_checksum (h : ReceiverAfter s raw (.fail .truncatedFrame) t)
    (hh : HeaderGood s.respMarker raw) (hl : raw.length = 4 + seqLength raw) :
    ∃ v, ReceiverAfter s (raw ++ [b]) v (t.receiveChecksumByte b) := by
  have h4 := hh.arrived
  have hlen : (raw ++ [b]).length = raw.length + 1 := List.length_append
  have hn : seqLength (raw ++ [b]) = seqLength raw := seqLength_append h4 b
  have hlast : seqByte (raw ++ [b]) (4 + seqLength (raw ++ [b])) = b := by rw [hn, ← hl, seqByte_append_length]
  have hbody : t.rxsum = ck8 (seqBody (raw ++ [b])) := by
    rw [h.sum rfl h4, seqBody_append h4 hl.ge, seqBody, List.take_of_length_le (by rw [List.length_drop]; omega)]
  have hcnt : 5 + seqLength (raw ++ [b]) = raw.length + 1 := by omega
  rcases t.receiveChecksumByte_cases b with ⟨hb, ht⟩ | ⟨hb, ht⟩ <;> rw [ht] <;> rw [hbody] at hb
  · exact ⟨_, h.store (.accept (hh.append b) (by omega) (hlast.trans hb)) hcnt rfl nofun nofun⟩
  · exact ⟨_, h.storeFail (.badBody (hh.append b) (by omega) (hlast.trans_ne hb)) hcnt.symm nofun⟩

/-- A received byte takes the receiver to where the longer sequence leaves it. -/
theorem ReceiverAfter.receive {v : FrameVerdict} (h : ReceiverAfter s raw v t) (b : Byte) :
    ∃ v' u, exec (.rxb b) t = .next u ∧ ReceiverAfter s (raw ++ [b]) v' u := by
  by_cases hv : v = .fail .truncatedFrame
  case neg => exact ⟨v, _, receiveByte_closed (h.closed hv) b, h.drop hv b⟩
  subst hv
  obtain ⟨-, hn⟩ := h.open_count
  have hstate : t.rxState = openState raw := h.state
  cases h.verdict with
  | short hl =>
    have hs : t.rxState = .idle ∨ t.rxState = .hdr := by
      rw [hstate, openState, if_pos hl]
      split
      · exact .inl rfl
      · exact .inr rfl
    by_cases h3 : raw.length < 3
    · exact ⟨_, _, receiveByte_header hs hn b, h.receive_early h3⟩
    · obtain ⟨v', hr⟩ := h.receive_fourth (b := b) (by omega)
      exact ⟨v', _, receiveByte_header hs hn b, hr⟩
  | incomplete hh hl =>
    rw [openState_of_arrived hh.arrived] at hstate
    by_cases hb : raw.length < 4 + seqLength raw
    · exact ⟨_, _, receiveByte_body (hstate.trans (if_pos hb)) hn b, h.receive_body hh hb⟩
    · obtain ⟨v', hr⟩ := h.receive_checksum (b := b) hh (by omega)
      exact ⟨v', _, receiveByte_checksum (hstate.trans (if_neg hb)) hn b, hr⟩

end

/-- The receiver agrees with `DecodeFrame` on every byte sequence (R155). -/
theorem execAll_receiveAll {s : State} (hs : s.rxState = .idle) (hc : s.rxcnt.toNat = 0) (raw : List Byte) :
    ∃ t, execAll (receiveAll raw) s = .next t ∧ ReceiverAfter s raw (decodeFrame s.respMarker raw) t := by
  induction raw using List.reverseRecOn with
  | nil => exact ⟨s, rfl, receiverAfter_nil hs hc⟩
  | append_singleton raw b ih =>
    obtain ⟨t, ht, hr⟩ := ih
    obtain ⟨v, u, hu, hru⟩ := hr.receive b
    refine ⟨u, ?_, hru.verdict.decodeFrame_eq ▸ hru⟩
    rw [receiveAll, List.map_append, execAll_append, ← receiveAll, ht]
    simp [execAll, hu]

/-! ### What the receiver's state says of the verdict -/

section
variable {s t : State} {raw : List Byte} {v : FrameVerdict}

/-- In DONE the verdict is an accepted frame of the bytes counted. -/
theorem ReceiverAfter.accept_of_done (h : ReceiverAfter s raw v t) (hd : t.rxState = .done) :
    ∃ f, v = .accept f t.rxcnt.toNat := by
  rw [h.count]
  have hq := h.state.symm.trans hd
  cases h.verdict with
  | accept => exact ⟨_, rfl⟩
  | short | incomplete =>
    simp only [verdictState, openState] at hq
    split_ifs at hq
  | badAck | badHeader | badBody => cases hq

/-- A failure other than TruncatedFrame leaves the receiver in ERR with its code. -/
theorem ReceiverAfter.err_of_fail {e : StatusCode} (h : ReceiverAfter s raw (.fail e) t) (he : e ≠ .truncatedFrame) :
    t.rxState = .err ∧ t.rxec = e :=
  ⟨h.state.trans (verdictState_fail he), h.code e rfl he⟩

end

end Sys2Proof.Machine

end

section
/-! SUPPORT. What a flipped bit makes of a byte sequence, of its checksums and of its verdict, and the statement about
flipped bits (spec/41_checksum.md R135). -/

open Sys2Proof Sys2Proof.Machine

namespace Sys2Proof.Machine

/-! ### The bytes of the flipped sequence -/

theorem xor_twoPow_ne {k : Nat} (hk : k < 8) (b : Byte) : b ^^^ BitVec.twoPow 8 k ≠ b := by
  intro h
  simpa [hk] using congrArg (·.getLsbD k) h

section
variable {m : Byte} {raw : List Byte} {i k : Nat}

@[simp] theorem length_flipBit (raw : List Byte) (i k : Nat) : (flipBit raw i k).length = raw.length :=
  List.length_modify ..

theorem seqByte_flipBit_of_ne {j : Nat} (hj : j ≠ i) : seqByte (flipBit raw i k) j = seqByte raw j := by
  simp [seqByte, flipBit, List.getD_eq_getElem?_getD, hj.symm]

theorem seqByte_flipBit_ne (hi : i < raw.length) (hk : k < 8) : seqByte (flipBit raw i k) i ≠ seqByte raw i := by
  simp [seqByte, flipBit, List.getD_eq_getElem?_getD, hi, xor_twoPow_ne hk]

theorem seqLength_flipBit (hi : 4 ≤ i) : seqLength (flipBit raw i k) = seqLength raw :=
  congrArg BitVec.toNat (seqByte_flipBit_of_ne (by omega))

/-- What a flip beyond the header makes of the body. -/
theorem seqBody_flipBit (hi : 4 ≤ i) : seqBody (flipBit raw i k) = flipBit (seqBody raw) (i - 4) k := by
  rw [seqBody, seqLength_flipBit hi, flipBit, List.drop_modify_of_ge _ _ _ _ hi, List.take_modify]
  rfl

theorem length_seqBody (hl : 4 + seqLength raw ≤ raw.length) : (seqBody raw).length = seqLength raw := by
  rw [seqBody, List.length_take, List.length_drop]
  omega

/-! ### The verdict on the flipped sequence -/

/-- A flip beyond the header leaves the header verified. -/
theorem HeaderGood.flip (h : HeaderGood m raw) (hi : 4 ≤ i) : HeaderGood m (flipBit raw i k) := by
  obtain ⟨h4, h0, h3⟩ := h
  refine ⟨by rwa [length_flipBit], ?_, ?_⟩
  all_goals
    repeat rw [seqByte_flipBit_of_ne (by omega)]
    assumption

/-- A flip in the marker is a wrong marker. -/
theorem HeaderGood.flip_marker (h : HeaderGood m raw) (hk : k < 8) :
    FrameOutcome m (flipBit raw 0 k) (.fail .badAck) := by
  have h4 := h.arrived
  refine .badAck (by rwa [length_flipBit]) ?_
  rw [← h.marker]
  exact seqByte_flipBit_ne (by omega) hk

/-- A flip in the opcode, the length or their checksum parts the checksum from the sum. -/
theorem HeaderGood.flip_header (h : HeaderGood m raw) (h1 : 1 ≤ i) (h3 : i ≤ 3) (hk : k < 8) :
    FrameOutcome m (flipBit raw i k) (.fail .badHeaderChecksum) := by
  obtain ⟨h4, h0, hck⟩ := h
  have hne : seqByte (flipBit raw i k) i ≠ seqByte raw i := seqByte_flipBit_ne (by omega) hk
  refine .badHeader (by rwa [length_flipBit]) ((seqByte_flipBit_of_ne (by omega)).trans h0) ?_
  obtain rfl | rfl | rfl : i = 1 ∨ i = 2 ∨ i = 3 := by omega
  all_goals simpa [seqByte_flipBit_of_ne, hck, ck8_cons, eq_comm] using hne

/-- A flip in the body changes its sum, and one in its checksum changes what the sum is compared with. -/
theorem FrameOutcome.flip_body {f : Frame} {n : Nat} (h : FrameOutcome m raw (.accept f n)) (h4 : 4 ≤ i)
    (hi : i < n) (hk : k < 8) : FrameOutcome m (flipBit raw i k) (.fail .badBodyChecksum) := by
  cases h with
  | accept hh hl hb =>
    refine .badBody (hh.flip h4) (by rwa [length_flipBit, seqLength_flipBit h4]) ?_
    have hlen := length_seqBody (raw := raw) (by omega)
    rw [seqLength_flipBit h4, seqBody_flipBit h4]
    by_cases hlast : i = 4 + seqLength raw
    · have hbody : flipBit (seqBody raw) (i - 4) k = seqBody raw := List.modify_eq_self (by omega)
      rw [hbody, ← hb, ← hlast]
      exact seqByte_flipBit_ne (by omega) hk
    · rw [seqByte_flipBit_of_ne (Ne.symm hlast), hb]
      exact (ck8_modify_ne (xor_twoPow_ne hk) (by omega)).symm

/-- A flip in a frame that is accepted fails it, with the code of the byte flipped. -/
theorem FrameOutcome.flip {f : Frame} {n : Nat} (h : FrameOutcome m raw (.accept f n)) (hi : i < n) (hk : k < 8) :
    FrameOutcome m (flipBit raw i k)
      (.fail (if i = 0 then .badAck else if i ≤ 3 then .badHeaderChecksum else .badBodyChecksum)) := by
  have hh : HeaderGood m raw := by cases h with | accept hh => exact hh
  split
  case isTrue h0 => exact h0 ▸ hh.flip_marker hk
  case isFalse h0 =>
  split
  case isTrue h3 => exact hh.flip_header (by omega) h3 hk
  case isFalse h3 => exact h.flip_body (by omega) hi hk

end

end Sys2Proof.Machine

/-! ### The statement -/

/-- Settles O24: the receiver agrees with `DecodeFrame` on both sequences, and a flip makes the verdict on an accepted
frame the failure of the byte flipped. -/
theorem singleBitFlipIsRejected : Obligations.SingleBitFlipIsRejected := by
  intro s t raw i k hidle hcnt ht hdone hall hi hk
  obtain ⟨t', ht', hraw⟩ := execAll_receiveAll hidle hcnt raw
  obtain rfl : t = t' := Host.Outcome.next.inj (ht.symm.trans ht')
  obtain ⟨f, hf⟩ := hraw.accept_of_done hdone
  have hflip := (hf ▸ hraw.verdict).flip (hall ▸ hi) hk
  obtain ⟨u, hu, hr⟩ := execAll_receiveAll hidle hcnt (flipBit raw i k)
  rw [hflip.decodeFrame_eq] at hr
  exact ⟨u, hu, hr.err_of_fail (by split_ifs <;> exact nofun)⟩

end

section
/-! SUPPORT. The encoder: the parts of an encoded frame, what ENC leaves in the state, the receiver on an encoded frame,
and the statements about them (spec/42_encoder.md R140 to R142). -/

open Sys2Proof Sys2Proof.Machine

namespace Sys2Proof.Machine

/-! ### The parts of an encoded frame (R141) -/

/-- The bytes of a frame past its header. -/
theorem getElem?_encodeFrame_add_four (op : Byte) (body : List Byte) (i : Nat) :
    (encodeFrame op body)[4 + i]? = (body ++ [ck8 body])[i]? :=
  (List.getElem?_drop (xs := encodeFrame op body) (i := 4)).symm

theorem getElem?_encodeFrame_checksum (op : Byte) (body : List Byte) :
    (encodeFrame op body)[4 + body.length]? = some (ck8 body) := by
  rw [getElem?_encodeFrame_add_four, List.getElem?_concat_length]

theorem headerChecksum_toNat (op n : Byte) : (headerChecksum op n).toNat = (op.toNat + n.toNat) % 256 :=
  ck8_toNat [op, n]

/-- The length byte holds the length of a body that fits. -/
theorem ofNat_length_toNat {body : List Byte} (hlen : body.length ≤ 255) :
    (BitVec.ofNat 8 body.length).toNat = body.length :=
  Nat.mod_eq_of_lt (Nat.lt_succ_of_le hlen)

/-- Read as a frame, an encoded frame announces the length of its body. -/
theorem seqLength_encodeFrame (op : Byte) {body : List Byte} (hlen : body.length ≤ 255) :
    seqLength (encodeFrame op body) = body.length :=
  ofNat_length_toNat hlen

/-- Read as a frame, an encoded frame holds its body. -/
theorem seqBody_encodeFrame (op : Byte) {body : List Byte} (hlen : body.length ≤ 255) :
    seqBody (encodeFrame op body) = body := by
  have htail : (encodeFrame op body).drop 4 = body ++ [ck8 body] := rfl
  rw [seqBody, seqLength_encodeFrame op hlen, htail, List.take_left]

/-! ### What ENC leaves in the state (R140) -/

/-- The body that ENC frames is EBUF, index by index. -/
theorem State.requestBody_eq_map (s : State) (n : Nat) : s.requestBody n = (List.range n).map s.ebuf :=
  s.bufBytes_eq_map (ebufAddr 0) n

/-- ENC writes no buffer byte outside its frame. -/
theorem State.sameOutside_encodeRequest (s : State) (n : Nat) :
    SameOutside s (s.encodeRequest n) (txbufAddr 0) (n + 5) := by
  intro x hx
  have hread : (s.encodeRequest n).bufByte x = _ := s.bufByte_setBufBytes (txbufAddr 0) _ x
  rw [hread, encodeFrame_length, State.requestBody_length, if_neg hx]

/-! ### The receiver on an encoded frame (R142) -/

/-- `DecodeFrame` accepts an encoded frame where responses carry the marker of requests. -/
theorem decodeFrame_encodeFrame {m : Byte} (hm : m = reqMarker) (op : Byte) {body : List Byte}
    (hlen : body.length ≤ 255) :
    decodeFrame m (encodeFrame op body) = .accept (seqFrame (encodeFrame op body)) (5 + body.length) := by
  have hall := encodeFrame_length op body
  have hgood : HeaderGood m (encodeFrame op body) := ⟨by omega, hm.symm, rfl⟩
  rw [← seqLength_encodeFrame op hlen] at hall ⊢
  refine (FrameOutcome.accept hgood (by omega) ?_).decodeFrame_eq
  rw [seqLength_encodeFrame op hlen, seqBody_encodeFrame op hlen, seqByte, List.getD_eq_getElem?_getD,
    getElem?_encodeFrame_checksum, Option.getD_some]

/-- RXBUF holds the opcode and the body of an accepted frame (spec/43_receiver.md R156). -/
theorem ReceiverAfter.frame_of_accept {s t : State} {raw : List Byte} {f : Frame} {n : Nat}
    (h : ReceiverAfter s raw (.accept f n) t) : t.rxbuf 1 = f.opcode ∧ t.frameBody = f.body := by
  cases h.verdict with
  | accept hh hl hb =>
    have hc : t.rxcnt.toNat = 5 + seqLength raw := h.count
    have hn : t.frameLength = seqLength raw := congrArg BitVec.toNat (h.stored 2 (by omega))
    refine ⟨h.stored 1 (by omega), List.ext_getElem? fun i => ?_⟩
    show (t.bufBytes (rxbufAddr 4) t.frameLength)[i]? = ((raw.drop 4).take (seqLength raw))[i]?
    rw [hn, State.bufBytes_getElem?, List.getElem?_take]
    split
    case isFalse => rfl
    case isTrue hi =>
      have hread : t.bufByte (rxbufAddr 4 + i) = seqByte raw (4 + i) := by
        rw [rxbufAddr, Nat.add_assoc]
        exact h.stored (4 + i) (by omega)
      have hin : 4 + i < raw.length := by omega
      rw [hread, List.getElem?_drop, seqByte, List.getD_eq_getElem _ _ hin, List.getElem?_eq_getElem hin]

end Sys2Proof.Machine

/-! ### The statements -/

/-- Settles O25: the header by its four bytes, the rest by the body and its checksum. -/
theorem encodedFrameLayout : Obligations.EncodedFrameLayout := by
  intro op body hlen
  have hn := ofNat_length_toNat hlen
  refine ⟨encodeFrame_length op body, rfl, rfl, congrArg some hn, congrArg some ?header, fun i hi => ?body, ?checksum⟩
  case header => rw [headerChecksum_toNat, hn]
  case body => rw [getElem?_encodeFrame_add_four, List.getElem?_append_left hi]
  case checksum => rw [getElem?_encodeFrame_checksum, Option.map_some, ck8_toNat]

/-- Settles O26: by what ENC does on the two sides of the longest body. -/
theorem encodeBuildsFrameOrFails : Obligations.EncodeBuildsFrameOrFails := by
  refine ⟨decode_htwOf_write 0x0000#16 0x03#8, fun s => ⟨fun hle => ?_, fun hgt => ?_⟩⟩
  · obtain ⟨hbig, -⟩ | ⟨-, henc⟩ := s.encode_cases
    · omega
    refine ⟨s.encodeRequest s.eLen.toNat, congrArg Host.Outcome.next henc, rfl, ?txlen, fun i hi => ?frame,
      s.sameOutside_encodeRequest _⟩
    case txlen => exact Nat.mod_eq_of_lt (show s.eLen.toNat + 5 < 2 ^ 16 by omega)
    case frame => rw [s.txbuf_encodeRequest hi, State.requestBody_eq_map]
  · obtain ⟨-, henc⟩ | ⟨hle, -⟩ := s.encode_cases
    · exact congrArg Host.Outcome.next henc
    · omega

/-- Settles O27: the receiver agrees with `DecodeFrame`, which accepts an encoded frame under the marker of requests;
under another, three bytes of it are an incomplete header and the fourth brings BadAck. -/
theorem encodedFrameIsAcceptedByReceiver : Obligations.EncodedFrameIsAcceptedByReceiver := by
  intro s op body hlen hidle hcnt
  have hreceive := execAll_receiveAll hidle hcnt
  refine ⟨fun hm => ?accepted, fun hm => ⟨?three, ?four⟩⟩
  case accepted =>
    obtain ⟨t, ht, hr⟩ := hreceive (encodeFrame op body)
    rw [decodeFrame_encodeFrame hm op hlen] at hr
    obtain ⟨hop, hbody⟩ := hr.frame_of_accept
    exact ⟨t, ht, hr.state, hop, hbody.trans (seqBody_encodeFrame op hlen)⟩
  case three =>
    obtain ⟨t, ht, hr⟩ := hreceive ((encodeFrame op body).take 3)
    have hv : FrameOutcome s.respMarker ((encodeFrame op body).take 3) (.fail .truncatedFrame) :=
      .short (Nat.lt_succ_self 3)
    rw [hv.decodeFrame_eq] at hr
    exact ⟨t, ht, hr.state⟩
  case four =>
    obtain ⟨t, ht, hr⟩ := hreceive ((encodeFrame op body).take 4)
    have hv : FrameOutcome s.respMarker ((encodeFrame op body).take 4) (.fail .badAck) := .badAck le_rfl hm.symm
    rw [hv.decodeFrame_eq] at hr
    exact ⟨t, ht, hr.err_of_fail nofun⟩

end

section
/-! SUPPORT. The receive step and the end of input state by state, the closed receiver, and the statements about them
(spec/43_receiver.md R152 to R158). -/

open Sys2Proof Sys2Proof.Machine

namespace Sys2Proof.Machine

/-! ### The receive step by its verdict (R152, R153) -/

section
variable {s : State} {b : Byte}

/-- While the FSM is open and RXBUF has room, RXB stores its byte and gives a verdict. -/
theorem receiveByte_open (hn : s.rxcnt.toNat < 260) (hd : s.rxState ≠ .done) (he : s.rxState ≠ .err) (b : Byte) :
    ∃ q c sum e, receiveByte b s = .next (s.receiveWith b q c sum e) := by
  have hheader : s.rxState = .idle ∨ s.rxState = .hdr →
      ∃ q c sum e, receiveByte b s = .next (s.receiveWith b q c sum e) := fun hs => by
    obtain ⟨q, c, sum, e, -, ht⟩ := State.receiveHeaderByte_verdict hs hn b
    exact ⟨q, c, sum, e, ht ▸ receiveByte_header hs hn b⟩
  cases hs : s.rxState with
  | idle => exact hheader (.inl hs)
  | hdr => exact hheader (.inr hs)
  | body => exact ⟨_, _, _, _, receiveByte_body hs hn b⟩
  | ckb =>
    obtain ⟨q, c, sum, e, -, ht⟩ := State.receiveChecksumByte_verdict hs b
    exact ⟨q, c, sum, e, ht ▸ receiveByte_checksum hs hn b⟩
  | done => exact absurd hs hd
  | err => exact absurd hs he

/-- The stored byte's cell is the only one that changes. -/
theorem State.sameOutside_receiveWith (s : State) (b : Byte) (q : RxState) (c : StatusCode) (sum : Byte)
    (e : StatusCode) : SameOutside s (s.receiveWith b q c sum e) (rxbufAddr s.rxcnt.toNat) 1 := fun x hx =>
  (s.bufByte_storeReceived b x).trans (if_neg (by omega))

theorem State.judgeHeader_of_badAck (h0 : s.rxbuf 0 ≠ s.respMarker) : s.judgeHeader = s.rxFail .badAck := by
  obtain ⟨-, hj⟩ | ⟨hm, -⟩ | ⟨hm, -⟩ := s.judgeHeader_cases
  · exact hj
  all_goals exact absurd hm h0

theorem State.judgeHeader_of_badChecksum (h0 : s.rxbuf 0 = s.respMarker)
    (h3 : s.rxbuf 3 ≠ headerChecksum (s.rxbuf 1) (s.rxbuf 2)) : s.judgeHeader = s.rxFail .badHeaderChecksum := by
  obtain ⟨hm, -⟩ | ⟨-, -, hj⟩ | ⟨-, hc, -⟩ := s.judgeHeader_cases
  · exact absurd h0 hm
  · exact hj
  · exact absurd hc h3

theorem State.judgeHeader_of_verified (h : HeaderVerified s) :
    s.judgeHeader =
      State.raise { s with rxsum := 0x00#8, rxState := if s.rxbuf 2 = 0x00#8 then .ckb else .body } .ok := by
  obtain ⟨hm, -⟩ | ⟨-, hc, -⟩ | ⟨-, -, hj⟩ := s.judgeHeader_cases
  · exact absurd h.1 hm
  · exact absurd h.2 hc
  · exact hj

theorem State.receiveHeaderByte_of_early (hn : s.rxcnt.toNat < 3) :
    s.receiveHeaderByte b = s.receiveWith b .hdr s.rxec s.rxsum .ok := by
  obtain ⟨-, ht⟩ | ⟨h3, -⟩ := s.receiveHeaderByte_cases b (by omega)
  · exact ht
  · omega

theorem State.receiveHeaderByte_of_fourth (h3 : 3 ≤ s.rxcnt.toNat) (hn : s.rxcnt.toNat < 260) :
    s.receiveHeaderByte b = (s.storeReceived b).judgeHeader := by
  obtain ⟨hlt, -⟩ | ⟨-, ht⟩ := s.receiveHeaderByte_cases b hn
  · omega
  · exact ht

/-- The body is complete when the counted byte is its last. -/
theorem State.receiveBodyByte_of_room (hn : s.rxcnt.toNat < 260) :
    s.receiveBodyByte b =
      s.receiveWith b (if s.rxcnt.toNat + 1 = 4 + (s.storeReceived b).frameLength then .ckb else .body)
        s.rxec (s.rxsum + b) .ok := by
  rw [State.receiveBodyByte_eq, s.storeReceived_rxcnt_toNat b hn]

theorem State.receiveChecksumByte_of_eq (hb : b = s.rxsum) :
    s.receiveChecksumByte b = s.receiveWith b .done s.rxec s.rxsum .ok := by
  obtain ⟨-, ht⟩ | ⟨hne, -⟩ := s.receiveChecksumByte_cases b
  · exact ht
  · exact absurd hb hne

theorem State.receiveChecksumByte_of_ne (hb : b ≠ s.rxsum) :
    s.receiveChecksumByte b = s.receiveWith b .err .badBodyChecksum s.rxsum .badBodyChecksum := by
  obtain ⟨heq, -⟩ | ⟨-, ht⟩ := s.receiveChecksumByte_cases b
  · exact absurd heq hb
  · exact ht

end

/-! ### The end of input state by state (R154) -/

section
variable {s : State}

theorem State.endOfInput_of_open (hd : s.rxState ≠ .done) (he : s.rxState ≠ .err) :
    s.endOfInput = s.rxFail .truncatedFrame := by
  obtain ⟨-, -, ht⟩ | ⟨hs, -⟩ | ⟨hs, -⟩ := s.endOfInput_cases
  · exact ht
  · exact absurd hs hd
  · exact absurd hs he

theorem State.endOfInput_of_done (hs : s.rxState = .done) : s.endOfInput = s.raise .ok := by
  simp only [State.endOfInput, hs]

theorem State.endOfInput_of_err (hs : s.rxState = .err) : s.endOfInput = s.raise s.rxec := by
  simp only [State.endOfInput, hs]

@[simp] theorem State.endOfInput_rxx (s : State) : s.endOfInput.rxx = s.rxx := by
  obtain ⟨-, -, ht⟩ | ⟨-, ht⟩ | ⟨-, ht⟩ := s.endOfInput_cases <;> rw [ht] <;> rfl

end

/-! ### The verdict at the end of input (R155) -/

/-- An incomplete frame leaves the FSM open. -/
theorem openState_open (raw : List Byte) : openState raw ≠ .done ∧ openState raw ≠ .err := by
  unfold openState
  split_ifs <;> decide

section
variable {s t : State} {raw : List Byte}

/-- After RXEOF a failed verdict stands in STATUS, RXST and RXEC. -/
theorem ReceiverAfter.endOfInput_fail {e : StatusCode} (h : ReceiverAfter s raw (.fail e) t) :
    t.endOfInput.status = e ∧ t.endOfInput.rxState = .err ∧ t.endOfInput.rxec = e := by
  by_cases he : e = .truncatedFrame
  · subst he
    have hq : t.rxState = openState raw := h.state
    obtain ⟨hd, herr⟩ := openState_open raw
    rw [State.endOfInput_of_open (hq.trans_ne hd) (hq.trans_ne herr)]
    exact ⟨rfl, rfl, rfl⟩
  · obtain ⟨hs, hc⟩ := h.err_of_fail he
    rw [State.endOfInput_of_err hs]
    exact ⟨hc, hs, hc⟩

/-- RXBUF holds the bytes counted. -/
theorem ReceiverAfter.rxbuf_eq_getElem? {v : FrameVerdict} (h : ReceiverAfter s raw v t) {i : Nat}
    (hi : i < consumedBytes raw v) : some (t.rxbuf i) = raw[i]? := by
  have hin : i < raw.length := Nat.lt_of_lt_of_le hi h.verdict.consumedBytes_le
  rw [h.stored i (h.count ▸ hi), seqByte, List.getD_eq_getElem _ _ hin, List.getElem?_eq_getElem hin]

/-- An accepted frame takes its body and five more bytes. -/
theorem FrameOutcome.consumed_of_accept {m : Byte} {f : Frame} {n : Nat} (h : FrameOutcome m raw (.accept f n)) :
    n = 5 + f.bodyLength.toNat := by
  cases h with
  | accept => rfl

/-- From a state with RXX clear, RXX is set when bytes are left over. -/
theorem ReceiverAfter.rxx_iff {v : FrameVerdict} (h : ReceiverAfter s raw v t) (hx : s.rxx = false) :
    t.rxx = true ↔ consumedBytes raw v < raw.length := by
  rw [h.dropped, h.count, hx]
  simp

end

/-! ### The closed receiver (R157) -/

/-- In DONE and ERR a byte sequence leaves the verdict, the count and the buffers. -/
theorem execAll_receiveAll_closed (raw : List Byte) {s : State} (hs : s.rxState = .done ∨ s.rxState = .err) :
    ∃ t, execAll (receiveAll raw) s = .next t ∧ t.rxState = s.rxState ∧ t.rxec = s.rxec ∧ t.rxcnt = s.rxcnt ∧
      t.mem = s.mem := by
  induction raw generalizing s with
  | nil => exact ⟨s, rfl, rfl, rfl, rfl, rfl⟩
  | cons b raw ih =>
    have hb : exec (.rxb b) s = .next s.dropReceived := receiveByte_closed hs b
    obtain ⟨t, ht, hkept⟩ := ih (s := s.dropReceived) hs
    refine ⟨t, ?_, hkept⟩
    simp only [receiveAll, List.map_cons, execAll, hb]
    exact ht

namespace Effect

variable {s t : State} {i : Instr}

/-- In DONE and ERR only CLR writes the FSM state, RXEC or RXCNT. -/
theorem receiver_eq_of_closed (h : Effect s i t) (hs : s.rxState = .done ∨ s.rxState = .err) (hi : i ≠ .clr) :
    t.rxState = s.rxState ∧ t.rxec = s.rxec ∧ t.rxcnt = s.rxcnt := by
  cases h with
  | clear => exact absurd rfl hi
  | truncate hd he => exact absurd hs (not_or.mpr ⟨hd, he⟩)
  | receive b q c sum e hn hv => exact absurd hs (not_or.mpr hv.rxState_open)
  | _ => simp

/-- In DONE and ERR nothing writes RXBUF. -/
theorem rxbuf_eq_of_closed (h : Effect s i t) (hs : s.rxState = .done ∨ s.rxState = .err) {j : Nat} (hj : j < 260) :
    t.rxbuf j = s.rxbuf j := by
  by_contra hne
  obtain ⟨hi, -⟩ := h.rxbuf_change hj hne
  cases h with
  | drop => exact hne rfl
  | receive b q c sum e hn hv => exact absurd hs (not_or.mpr hv.rxState_open)
  | _ => cases hi

end Effect

end Sys2Proof.Machine

/-! ### The statements -/

/-- Settles O28: it is the drop of a closed receiver. -/
theorem receiveIsDroppedWhenClosed : Obligations.ReceiveIsDroppedWhenClosed :=
  fun b _ hs => receiveByte_closed hs b

/-- Settles O31: the word is the write of the command, whose effect the three groups of FSM states give. -/
theorem endOfInputVerdict : Obligations.EndOfInputVerdict :=
  ⟨decode_htwOf_write 0x0000#16 0x02#8, fun _ =>
    ⟨fun hd he => congrArg Host.Outcome.next (State.endOfInput_of_open hd he),
      fun hs => congrArg Host.Outcome.next (State.endOfInput_of_done hs),
      fun hs => congrArg Host.Outcome.next (State.endOfInput_of_err hs)⟩⟩

/-- Settles O29: every open state stores the byte, and the step of each state gives the rest of the next state. -/
theorem receiveStoresByteAndAdvances : Obligations.ReceiveStoresByteAndAdvances := by
  intro b s hn hd he
  obtain ⟨q, c, sum, e, ht⟩ := receiveByte_open hn hd he b
  have hheader (hs) := Host.Outcome.next.inj (ht.symm.trans (receiveByte_header hs hn b))
  have hfourth (hs) (h3 : 3 ≤ s.rxcnt.toNat) := (hheader hs).trans (State.receiveHeaderByte_of_fourth h3 hn)
  have hbody (hs) := Host.Outcome.next.inj (ht.symm.trans (receiveByte_body hs hn b))
  have hchecksum (hs) := Host.Outcome.next.inj (ht.symm.trans (receiveByte_checksum hs hn b))
  refine ⟨_, ht, s.storeReceived_rxcnt_toNat b hn, s.rxbuf_storeReceived_rxcnt, s.sameOutside_receiveWith b q c sum e,
    ?early, ?badAck, ?badHeaderChecksum, ?verified, ?body, ?accepted, ?badBodyChecksum⟩
  case early => exact fun hs h3 => (hheader hs).trans (State.receiveHeaderByte_of_early h3)
  case badAck => exact fun hs h3 h0 => (hfourth hs h3).trans (State.judgeHeader_of_badAck h0)
  case badHeaderChecksum =>
    exact fun hs h3 h0 hck => (hfourth hs h3).trans (State.judgeHeader_of_badChecksum h0 hck)
  case verified => exact fun hs h3 h0 hck => (hfourth hs h3).trans (State.judgeHeader_of_verified ⟨h0, hck⟩)
  case body => exact fun hs => (hbody hs).trans (State.receiveBodyByte_of_room hn)
  case accepted => exact fun hs hb => (hchecksum hs).trans (State.receiveChecksumByte_of_eq hb)
  case badBodyChecksum => exact fun hs hb => (hchecksum hs).trans (State.receiveChecksumByte_of_ne hb)

/-- Settles O32: the receiver stands where `DecodeFrame` says when the bytes end, and RXEOF puts that verdict in
STATUS. -/
theorem receiverAgreesWithDecodeFrame : Obligations.ReceiverAgreesWithDecodeFrame := by
  intro s raw hidle hcnt hx
  obtain ⟨t, ht, hr⟩ := execAll_receiveAll hidle hcnt raw
  refine ⟨t.endOfInput, ?run, ?dropped, fun e hv => ?failed, fun f n hv => ?accepted⟩
  case run => rw [execAll_append, ht]; rfl
  case dropped => rw [State.endOfInput_rxx]; exact hr.rxx_iff hx
  case failed => exact (hv ▸ hr).endOfInput_fail
  case accepted =>
    rw [hv] at hr
    have hdone : t.rxState = .done := hr.state
    rw [State.endOfInput_of_done hdone]
    exact ⟨rfl, hdone, hr.verdict.consumed_of_accept, fun i hi => hr.rxbuf_eq_getElem? hi⟩

/-- Settles O33: every byte is dropped, and of all effects in DONE and ERR only that of CLR reaches the receiver. -/
theorem receiverNeverResynchronises : Obligations.ReceiverNeverResynchronises := by
  intro s hs
  refine ⟨fun raw => execAll_receiveAll_closed raw hs, fun i t hw hi h => ?_⟩
  have he : Effect s i t := exec_effect_of_wellFormed hw h
  obtain ⟨hstate, hcode, hcount⟩ := he.receiver_eq_of_closed hs hi
  exact ⟨hstate, hcode, hcount, fun _ => he.rxbuf_eq_of_closed hs⟩

end

section
/-! SUPPORT. The catalog: its checks as the conditions of R181, lookup by opcode, and the statements about them
(spec/44_fields.md R181, R182). -/

open Sys2Proof Sys2Proof.Machine

namespace Sys2Proof.Machine

/-! ### The checks one by one (R181) -/

theorem pairwiseHolds_iff {α : Type} {p : α → α → Bool} {l : List α} :
    pairwiseHolds p l = true ↔ l.Pairwise fun x y => p x y = true := by
  induction l with
  | nil => simp [pairwiseHolds]
  | cons x l ih => simp [pairwiseHolds, ih]

/-- The seven checks, in the order of the table of R181. -/
theorem catalogWf_iff_checks {c : List Descriptor} :
    catalogWf c = true ↔
      c.Pairwise (fun d e => d.opcode ≠ e.opcode) ∧
      (∀ d ∈ c, ∀ f ∈ d.fields, 1 ≤ f.wid ∧ f.wid ≤ 4) ∧
      (∀ d ∈ c, ∀ f ∈ d.fields, f.shift ≤ 63) ∧
      (∀ d ∈ c, ∀ f ∈ d.fields, fieldEnd f ≤ 255) ∧
      (∀ d ∈ c, ∀ f ∈ d.fields, fieldInFixed d.fixed f = true) ∧
      (∀ d ∈ c, d.fields.Pairwise fun f g => fieldsDisjoint f g = true) ∧
      ∀ d ∈ c, d.fields.length ≤ 255 := by
  simp [catalogWf, CatalogCheck.all, CatalogCheck.passes, pairwiseHolds_iff]

theorem fieldInFixed_iff {len : BodyLength} {f : FieldSpec} :
    fieldInFixed len f = true ↔ ∀ n, len = .fixed n → fieldEnd f ≤ n.toNat := by
  cases len <;> simp [fieldInFixed]

theorem fieldsDisjoint_eq_true {f g : FieldSpec} :
    fieldsDisjoint f g = true ↔ f.off + f.wid ≤ g.off ∨ g.off + g.wid ≤ f.off := by
  rw [fieldsDisjoint, Bool.or_eq_true, decide_eq_true_eq, decide_eq_true_eq]
  rfl

/-- Two fields that are not empty are disjoint when no byte lies in both. -/
theorem fieldsDisjoint_iff {f g : FieldSpec} (hf : 1 ≤ f.wid) (hg : 1 ≤ g.wid) :
    fieldsDisjoint f g = true ↔
      ∀ x, ¬ ((f.off ≤ x ∧ x < f.off + f.wid) ∧ (g.off ≤ x ∧ x < g.off + g.wid)) := by
  rw [fieldsDisjoint_eq_true]
  constructor
  · intro h x
    omega
  · intro h
    have hfirst := h f.off
    have hsecond := h g.off
    omega

/-- Disjoint fields that are not empty start at different bytes. -/
theorem off_ne_of_fieldsDisjoint {f g : FieldSpec} (hf : 1 ≤ f.wid) (hg : 1 ≤ g.wid)
    (h : fieldsDisjoint f g = true) : f.off ≠ g.off := by
  rw [fieldsDisjoint_eq_true] at h
  omega

/-- The conditions on a field of a well-formed catalog. -/
theorem field_rules_of_catalogWf {c : List Descriptor} (hc : catalogWf c = true) {d : Descriptor} (hd : d ∈ c)
    {f : FieldSpec} (hf : f ∈ d.fields) :
    1 ≤ f.wid ∧ f.wid ≤ 4 ∧ f.shift ≤ 63 ∧ f.off + f.wid ≤ 255 ∧
      ∀ n, d.fixed = .fixed n → f.off + f.wid ≤ n.toNat := by
  obtain ⟨-, hwidth, hshift, hframe, hfixed, -, -⟩ := catalogWf_iff_checks.mp hc
  obtain ⟨hlow, hhigh⟩ := hwidth d hd f hf
  exact ⟨hlow, hhigh, hshift d hd f hf, hframe d hd f hf, fieldInFixed_iff.mp (hfixed d hd f hf)⟩

/-- A configuration that fails is refused by a check that fails. -/
theorem configure_eq_error {c : List Descriptor} (h : catalogWf c = false) (m : Byte) :
    ∃ k, configure m c = .error k ∧ k.passes c = false := by
  cases hk : catalogFailure c with
  | none => simp [catalogWf_of_no_failure hk] at h
  | some k => exact ⟨k, by simp [configure, hk], by simpa using List.find?_some hk⟩

/-! ### Lookup (R182) -/

theorem lookup_eq_some {c : List Descriptor} {op : Byte} {d : Descriptor} (h : lookup c op = some d) :
    d ∈ c ∧ d.opcode = op :=
  ⟨List.mem_of_find?_eq_some h, by simpa using List.find?_some h⟩

theorem lookup_eq_none_iff {c : List Descriptor} {op : Byte} : lookup c op = none ↔ ∀ d ∈ c, d.opcode ≠ op := by
  simp [lookup]

end Sys2Proof.Machine

/-! ### The statements -/

/-- Settles O35: the seven checks, two fields being compared byte by byte once CAT_WIDTH has made them not empty. -/
theorem catalogChecksAreTheRules : Obligations.CatalogChecksAreTheRules := by
  refine fun c => ⟨⟨fun hc => ?rules, fun h => catalogWf_iff_checks.mpr ?checks⟩, configure_eq_error⟩
  case rules =>
    obtain ⟨hunique, -, -, -, -, hoverlap, hcount⟩ := catalogWf_iff_checks.mp hc
    have hfield (d) (hd : d ∈ c) := fun f => field_rules_of_catalogWf (f := f) hc hd
    refine ⟨hunique, fun d hd => ⟨hfield d hd, ?_, hcount d hd⟩⟩
    exact (hoverlap d hd).imp_of_mem fun hf hg => (fieldsDisjoint_iff (hfield d hd _ hf).1 (hfield d hd _ hg).1).mp
  case checks =>
    obtain ⟨hunique, hrules⟩ := h
    have hfield (d) (hd : d ∈ c) := (hrules d hd).1
    refine ⟨hunique, fun d hd f hf => ?width, fun d hd f hf => ?shift, fun d hd f hf => ?inFrame,
      fun d hd f hf => ?inFixed, fun d hd => ?noOverlap, fun d hd => (hrules d hd).2.2⟩
    case noOverlap =>
      exact (hrules d hd).2.1.imp_of_mem fun hf hg => (fieldsDisjoint_iff (hfield d hd _ hf).1 (hfield d hd _ hg).1).mpr
    all_goals obtain ⟨hlow, hhigh, hshift, hframe, hfixed⟩ := hfield d hd f hf
    case width => exact ⟨hlow, hhigh⟩
    case shift => exact hshift
    case inFrame => exact hframe
    case inFixed => exact fieldInFixed_iff.mpr hfixed

/-- Settles O36: the fields start at different bytes below 255. -/
theorem disjointFieldsAreAtMost255 : Obligations.DisjointFieldsAreAtMost255 := by
  intro fs hfs hdisjoint
  have hoffs : (fs.map FieldSpec.off).Nodup := List.pairwise_map.mpr <|
    (pairwiseHolds_iff.mp hdisjoint).imp_of_mem fun hf hg => off_ne_of_fieldsDisjoint (hfs _ hf).1 (hfs _ hg).1
  have hrange : fs.map FieldSpec.off ⊆ List.range 255 := by
    intro x hx
    obtain ⟨f, hf, rfl⟩ := List.mem_map.mp hx
    have ⟨hlow, hend⟩ := hfs f hf
    exact List.mem_range.mpr (by omega)
  simpa using (hoffs.subperm hrange).length_le

/-- Settles O37: Lookup finds some descriptor with the opcode if there is one, and unique opcodes leave no other. -/
theorem lookupFindsTheDescriptor : Obligations.LookupFindsTheDescriptor := by
  intro c op hc
  have hunique : (c.map Descriptor.opcode).Nodup := List.pairwise_map.mpr (catalogWf_iff_checks.mp hc).1
  refine ⟨fun d => ⟨lookup_eq_some, fun ⟨hd, hop⟩ => ?_⟩, lookup_eq_none_iff⟩
  cases he : lookup c op with
  | none => exact absurd hop (lookup_eq_none_iff.mp he d hd)
  | some e =>
    obtain ⟨hmem, heop⟩ := lookup_eq_some he
    rw [List.inj_on_of_nodup_map hunique hmem hd (heop.trans hop.symm)]

end

section
/-! SUPPORT. The extraction arithmetic: a field's bytes as a number, that number as a pattern read by the field's
signedness, its scaled product, and the statements about them (spec/44_fields.md R183 to R185, R191). -/

open Sys2Proof Sys2Proof.Machine

namespace Sys2Proof.Machine

/-! ### Little-endian bytes (R183) -/

theorem leValue_eq_sum (l : List Byte) :
    leValue l = ∑ k ∈ Finset.range l.length, (l.getD k 0x00#8).toNat * 256 ^ k := by
  induction l with
  | nil => rfl
  | cons b l ih =>
    rw [leValue, ih, List.length_cons, Finset.sum_range_succ', Finset.mul_sum, Nat.add_comm]
    congr 1
    · refine Finset.sum_congr rfl fun k _ => ?_
      rw [List.getD_cons_succ, Nat.pow_succ]
      ring
    · simp

theorem leValue_lt (l : List Byte) : leValue l < 256 ^ l.length := by
  induction l with
  | nil => exact Nat.one_pos
  | cons b l ih =>
    have hb := b.isLt
    rw [leValue, List.length_cons, Nat.pow_succ]
    omega

/-! ### The raw value as a pattern of the field's width (R184) -/

theorem rawValue_unsigned (v wid : Nat) : rawValue v wid false = v := by simp [rawValue]

section
variable {wid : Nat} (hw : 1 ≤ wid)
include hw

theorem two_pow_width : 2 ^ (8 * wid) = 2 * 2 ^ (8 * wid - 1) := by
  rw [← Nat.pow_succ', Nat.succ_eq_add_one, Nat.sub_add_cancel (by omega)]

/-- A signed field is read as two's complement. -/
theorem rawValue_signed (p : BitVec (8 * wid)) : rawValue p.toNat wid true = p.toInt := by
  have hhalf := two_pow_width hw
  rw [rawValue, BitVec.toInt_eq_toNat_cond]
  by_cases hp : 2 ^ (8 * wid - 1) ≤ p.toNat
  · rw [if_pos ⟨rfl, hp⟩, if_neg (by omega), Nat.cast_pow, Nat.cast_ofNat]
  · rw [if_neg (fun h => hp h.2), if_pos (by omega)]

/-- A raw value of width 1 to 4 has at most 32 bits beside its sign. -/
theorem natAbs_rawValue_le (h4 : wid ≤ 4) (p : BitVec (8 * wid)) (sgn : Bool) :
    (rawValue p.toNat wid sgn).natAbs ≤ 2 ^ 32 - 1 := by
  have hpow : 2 ^ (8 * wid) ≤ 2 ^ 32 := Nat.pow_le_pow_right (by omega) (by omega)
  have hp := p.isLt
  cases sgn with
  | false =>
    rw [rawValue_unsigned, Int.natAbs_natCast]
    omega
  | true =>
    rw [rawValue_signed hw, BitVec.toInt_eq_toNat_cond]
    split <;> omega

end

/-- A mantissa is at least -2^31 and below 2^31 (spec/10_state.md R37). -/
theorem natAbs_mantissa_le (mant : BitVec 32) : mant.toInt.natAbs ≤ 2 ^ 31 := by
  have hlow := mant.le_toInt
  have hhigh := mant.toInt_lt
  omega

/-! ### A value placed in a body (R191) -/

theorem setWidth_ofInt {m n : Nat} (h : m ≤ n) (x : Int) : (BitVec.ofInt n x).setWidth m = BitVec.ofInt m x := by
  have hdvd : (2 : Int) ^ m ∣ 2 ^ n := pow_dvd_pow 2 h
  have hpos (k : Nat) : 0 ≤ x % 2 ^ k := Int.emod_nonneg x (by positivity)
  apply BitVec.eq_of_toNat_eq
  rw [BitVec.toNat_setWidth, BitVec.toNat_ofInt, BitVec.toNat_ofInt]
  zify
  rw [Int.toNat_of_nonneg (hpos n), Int.toNat_of_nonneg (hpos m), Int.emod_emod_of_dvd x hdvd]

/-- A field whose bytes in the body are those of a pattern holds the pattern's low bits. -/
theorem fieldBits_of_placed {n : Nat} {v : BitVec n} {body : List Byte} {off wid : Nat}
    (h : ∀ k, k < wid → body[off + k]? = some (byteOf v k)) :
    fieldBits body off wid = (v.setWidth (8 * wid)).toNat := by
  have hbytes : (body.drop off).take wid = (List.range' 0 wid).map (byteOf v) := by
    refine List.ext_getElem? fun k => ?_
    rw [List.getElem?_take, List.getElem?_drop, ← List.range_eq_range', List.getElem?_map]
    by_cases hk : k < wid
    · simp [hk, h k hk]
    · simp [hk]
  rw [fieldBits, hbytes, leValue_range_byteOf, BitVec.toNat_setWidth, Nat.pow_zero, Nat.div_one, Nat.pow_mul]

/-- An integer that fits a field is read back from its pattern. -/
theorem rawValue_ofInt {wid : Nat} (hw : 1 ≤ wid) {sgn : Bool} {x : Int}
    (hx : if sgn = true then -(2 ^ (8 * wid - 1) : Int) ≤ x ∧ x < 2 ^ (8 * wid - 1) else 0 ≤ x ∧ x < 2 ^ (8 * wid)) :
    rawValue (BitVec.ofInt (8 * wid) x).toNat wid sgn = x := by
  cases sgn with
  | true =>
    rw [rawValue_signed hw]
    exact BitVec.toInt_ofInt_eq_self (by omega) hx.1 hx.2
  | false =>
    rw [if_neg Bool.false_ne_true] at hx
    have hsmall : x % ((2 ^ (8 * wid) : Nat) : Int) = x := Int.emod_eq_of_lt hx.1 (by exact_mod_cast hx.2)
    rw [rawValue_unsigned, BitVec.toNat_ofInt, hsmall, Int.toNat_of_nonneg hx.1]

end Sys2Proof.Machine

/-! ### The statements -/

/-- Settles O38: a field inside the body has all its bytes there. -/
theorem fieldBitsLittleEndian : Obligations.FieldBitsLittleEndian := by
  intro body off wid hend
  have hlen : ((body.drop off).take wid).length = wid := by
    rw [List.length_take, List.length_drop]
    omega
  have hsum := leValue_eq_sum ((body.drop off).take wid)
  have hlt := leValue_lt ((body.drop off).take wid)
  rw [hlen] at hsum hlt
  refine ⟨hsum.trans (Finset.sum_congr rfl fun k hk => ?_), by rwa [Nat.pow_mul]⟩
  rw [List.getD_eq_getElem?_getD, List.getElem?_take, if_pos (Finset.mem_range.mp hk), List.getElem?_drop,
    List.getD_eq_getElem?_getD]

/-- Settles O39: a signed raw value is the integer of the field's pattern, an unsigned one its number. -/
theorem rawValueTwosComplement : Obligations.RawValueTwosComplement := by
  intro v wid hw h4 hv
  obtain ⟨p, rfl⟩ : ∃ p : BitVec (8 * wid), p.toNat = v := ⟨BitVec.ofNat _ v, Nat.mod_eq_of_lt hv⟩
  have hhalf := two_pow_width hw
  have hsigned : rawValue p.toNat wid true = p.toInt := rawValue_signed hw p
  have hunsigned : rawValue p.toNat wid false = p.toNat := rawValue_unsigned p.toNat wid
  rw [BitVec.ofNat_toNat, BitVec.setWidth_eq, hsigned, hunsigned]
  have hlt : (p.toNat : Int) < 2 ^ (8 * wid) := by exact_mod_cast hv
  refine ⟨⟨rfl, by omega, by omega⟩, ?below, ?above, p.le_toInt, ?range, rfl, ?zext, ?recovered⟩
  case below => exact fun h => BitVec.toInt_eq_toNat_of_lt (by omega)
  case above =>
    intro h
    rw [BitVec.toInt_eq_toNat_cond, if_neg (by omega), Nat.cast_pow, Nat.cast_ofNat]
  case range => exact Int.le_sub_one_of_lt p.toInt_lt
  case zext => rw [BitVec.ofInt_natCast, BitVec.ofNat_toNat]
  case recovered =>
    intro sgn
    cases sgn with
    | true =>
      rw [hsigned]
      exact BitVec.toInt_signExtend_of_le (by omega)
    | false =>
      have h32 : 2 ^ (8 * wid) ≤ 2 ^ 32 := Nat.pow_le_pow_right (by omega) (by omega)
      rw [hunsigned, BitVec.ofInt_natCast]
      exact congrArg Nat.cast (Nat.mod_eq_of_lt (hv.trans_le h32))

/-- Settles O40: 32 bits times 31 bits, beside the sign, fit in 63. -/
theorem scaledProductIsExact : Obligations.ScaledProductIsExact := by
  intro v wid sgn mant hw h4 hv
  have hraw : (rawValue v wid sgn).natAbs ≤ 2 ^ 32 - 1 := by
    simpa [Nat.mod_eq_of_lt hv] using natAbs_rawValue_le hw h4 (BitVec.ofNat (8 * wid) v) sgn
  have hbound : (rawValue v wid sgn * mant.toInt).natAbs ≤ 2 ^ 63 - 2 ^ 31 := by
    rw [Int.natAbs_mul]
    exact Nat.mul_le_mul hraw (natAbs_mantissa_le mant)
  rw [scaledValue]
  exact ⟨rfl, BitVec.toInt_ofInt_eq_self (by omega) (by omega) (by omega), hbound⟩

/-- Settles O46: the body holds the value's pattern at the field's width, and the value is read back from it. -/
theorem fieldRoundTripIsExact : Obligations.FieldRoundTripIsExact := by
  intro c d f body x hc hd hf hend hx hbytes
  obtain ⟨hw, h4, hshift, -⟩ := field_rules_of_catalogWf hc hd hf
  have hlt := (fieldBitsLittleEndian body f.off f.wid hend).2
  have hraw : fieldRaw f body = x := by
    rw [fieldRaw, fieldBits_of_placed hbytes, setWidth_ofInt (by omega), rawValue_ofInt hw hx]
  obtain ⟨-, -, -, -, -, -, -, hrecovered⟩ := rawValueTwosComplement _ _ hw h4 hlt
  obtain ⟨-, hscaled, -⟩ := scaledProductIsExact _ _ f.sgn f.mant hw h4 hlt
  rw [← hraw]
  exact ⟨hrecovered f.sgn, hscaled, Nat.mod_eq_of_lt (by omega)⟩

end

section
/-! SUPPORT. FX and FDEC path by path, the FOUT entries that FDEC leaves for software, and the statements about them
(spec/44_fields.md R187 to R189). -/

open Sys2Proof Sys2Proof.Machine

namespace Sys2Proof.Machine

/-! ### FX path by path (R187) -/

section
variable {s : State}

theorem State.fieldExtract_of_badWidth (hw : ¬ (1 ≤ s.xWid.toNat ∧ s.xWid.toNat ≤ 4)) :
    s.fieldExtract = s.raise .badFieldSpec :=
  if_pos (Bool.eq_false_iff.mpr (mt (legalWidth_iff _).mp hw))

variable (hw : 1 ≤ s.xWid.toNat ∧ s.xWid.toNat ≤ 4)
include hw

theorem State.fieldExtract_of_legalWidth :
    s.fieldExtract =
      if s.rxState ≠ .done then s.raise .noFrame
      else if s.offsetOperand + s.widthOperand > s.frameLength then s.raise .fieldOutOfRange
      else s.extractField :=
  if_neg (ne_false_of_eq_true ((legalWidth_iff _).mpr hw))

theorem State.fieldExtract_of_noFrame (hs : s.rxState ≠ .done) : s.fieldExtract = s.raise .noFrame := by
  rw [State.fieldExtract_of_legalWidth hw, if_pos hs]

theorem State.fieldExtract_of_outOfRange (hs : s.rxState = .done)
    (hend : s.xOff.toNat + s.xWid.toNat > s.frameLength) : s.fieldExtract = s.raise .fieldOutOfRange := by
  rw [State.fieldExtract_of_legalWidth hw, if_neg (not_not.mpr hs)]
  exact if_pos hend

theorem State.fieldExtract_of_inRange (hs : s.rxState = .done)
    (hend : s.xOff.toNat + s.xWid.toNat ≤ s.frameLength) : s.fieldExtract = s.extractField := by
  rw [State.fieldExtract_of_legalWidth hw, if_neg (not_not.mpr hs)]
  exact if_neg (Nat.not_lt.mpr hend)

end

/-- A field of the received frame as the sum of its RXBUF bytes (R156, R183). -/
theorem State.fieldBits_frameBody {s : State} {off wid : Nat} (hend : off + wid ≤ s.frameLength) :
    fieldBits s.frameBody off wid = ∑ k ∈ Finset.range wid, (s.rxbuf (4 + off + k)).toNat * 256 ^ k := by
  have hlen : s.frameBody.length = s.frameLength := s.bufBytes_length _ _
  rw [(fieldBitsLittleEndian s.frameBody off wid (hlen ▸ hend)).1]
  refine Finset.sum_congr rfl fun k hk => ?_
  have hin : off + k < s.frameLength := by
    have := Finset.mem_range.mp hk
    omega
  rw [State.frameBody, List.getD_eq_getElem?_getD, State.bufBytes_getElem?, if_pos hin, Option.getD_some, State.rxbuf,
    rxbufAddr, rxbufAddr, Nat.add_assoc, Nat.add_assoc]

/-! ### FDEC path by path (R188) -/

theorem lengthDiffers_eq_false {len : BodyLength} {l : Byte} :
    lengthDiffers len l = false ↔ ∀ n, len = .fixed n → l = n := by
  cases len <;> simp [lengthDiffers]

theorem fieldRunsPast_eq_false {d : Descriptor} {l : Nat} :
    fieldRunsPast d l = false ↔ ∀ f ∈ d.fields, fieldEnd f ≤ l := by
  simp [fieldRunsPast]

theorem State.decodeFields_of_unknown {s : State} (hd : lookup s.catalog s.arg = none) :
    s.decodeFields = s.decodeFail .unknownCommand := by
  simp only [State.decodeFields, hd]

section
variable {s : State} {d : Descriptor} (hd : lookup s.catalog s.arg = some d)
include hd

theorem State.decodeFields_of_noFrame (hs : s.rxState ≠ .done) : s.decodeFields = s.decodeFail .noFrame := by
  simp only [State.decodeFields, hd, if_pos hs]

variable (hs : s.rxState = .done)
include hs

theorem State.decodeFields_of_otherOpcode (hop : s.rxbuf 1 ≠ s.arg) :
    s.decodeFields = s.decodeFail .unexpectedOpcode := by
  simp [State.decodeFields, hd, hs, hop]

variable (hop : s.rxbuf 1 = s.arg)
include hop

theorem State.decodeFields_of_otherLength (hlen : lengthDiffers d.fixed (s.rxbuf 2) = true) :
    s.decodeFields = s.decodeFail .unexpectedBodyLength := by
  simp [State.decodeFields, hd, hs, hop, hlen]

variable (hlen : lengthDiffers d.fixed (s.rxbuf 2) = false)
include hlen

theorem State.decodeFields_of_runsPast (hend : fieldRunsPast d s.frameLength = true) :
    s.decodeFields = s.decodeFail .fieldOutOfRange := by
  simp [State.decodeFields, hd, hs, hop, hlen, hend]

theorem State.decodeFields_of_fits (hend : fieldRunsPast d s.frameLength = false) :
    s.decodeFields = s.decodeDescriptor d := by
  simp [State.decodeFields, hd, hs, hop, hlen, hend]

end

/-- FDEC that leaves STATUS at OK has decoded a descriptor. -/
theorem State.decodeFields_of_ok {s : State} (h : s.decodeFields.status = .ok) :
    ∃ d, lookup s.catalog s.arg = some d ∧ s.decodeFields = s.decodeDescriptor d := by
  obtain ⟨e, ht, he⟩ | ⟨d, hd, -, -, -, -, ht⟩ := s.decodeFields_cases
  · rw [ht, State.decodeFail_status] at h
    simp [h] at he
  · exact ⟨d, hd, ht⟩

/-! ### FOUT after a successful FDEC (R189, spec/10_state.md R45) -/

theorem State.bufByte_decodeDescriptor (s : State) (d : Descriptor) (x : Nat) :
    (s.decodeDescriptor d).bufByte x =
      if foutAddr 0 ≤ x ∧ x < foutAddr 0 + 16 * d.fields.length then
        (descriptorBytes d s.frameBody).getD (x - foutAddr 0) 0x00#8
      else s.bufByte x := by
  have hread : (s.decodeDescriptor d).bufByte x = _ := s.bufByte_setBufBytes (foutAddr 0) _ x
  rwa [descriptorBytes_length] at hread

/-- FOUT holds the bytes of the field's entry. -/
theorem State.bufByte_decodeDescriptor_entry (s : State) {d : Descriptor} {i : Nat} {f : FieldSpec}
    (hf : d.fields[i]? = some f) {k : Nat} (hk : k < 16) :
    some ((s.decodeDescriptor d).bufByte (foutAddr i + k)) = (fieldEntry f s.frameBody).bytes[k]? := by
  obtain ⟨hi, -⟩ := List.getElem?_eq_some_iff.mp hf
  have hin : foutAddr 0 ≤ foutAddr i + k ∧ foutAddr i + k < foutAddr 0 + 16 * d.fields.length := by
    simp only [foutAddr]
    omega
  have hidx : foutAddr i + k - foutAddr 0 = 16 * i + k := by
    simp only [foutAddr]
    omega
  have hbyte := descriptorBytes_getElem? d s.frameBody i k hk
  rw [hf, Option.bind_some] at hbyte
  rw [State.bufByte_decodeDescriptor, if_pos hin, hidx, ← hbyte, List.getD_eq_getElem?_getD]
  simp [hbyte, hk]

theorem FoutEntry.bytes_raw (e : FoutEntry) {k : Nat} (hk : k < 4) : e.bytes[4 + k]? = some (byteOf e.raw k) := by
  interval_cases k <;> rfl

theorem FoutEntry.bytes_scaled (e : FoutEntry) {k : Nat} (hk : k < 8) : e.bytes[8 + k]? = some (byteOf e.scaled k) := by
  interval_cases k <;> rfl

theorem memRead_fout {i k : Nat} (hi : i < 255) (hk : k < 16) (s : State) :
    memRead (BitVec.ofNat 16 (0x1000 + 16 * i + k)) s = s.bufByte (foutAddr i + k) := by
  rw [foutAddr, Nat.add_assoc]
  exact memRead_ofNat_of_region (r := ⟨0x1000, 4080, .fout, .r⟩) (by decide) (show 16 * i + k < 4080 by omega) s

end Sys2Proof.Machine

/-! ### The statements -/

/-- Settles O41, path by path; the field's bytes are those of RXBUF from RXBUF[4] on. -/
theorem extractFieldResult : Obligations.ExtractFieldResult := by
  refine ⟨decode_htwOf_write 0x0000#16 0x04#8, fun s => ⟨fun h => congrArg Host.Outcome.next ?badWidth, fun h1 h4 =>
    ⟨fun hs => congrArg Host.Outcome.next ?noFrame, fun hs hend => congrArg Host.Outcome.next ?outOfRange,
      fun hs hend => ?result⟩⟩⟩
  case badWidth => exact State.fieldExtract_of_badWidth (by omega)
  case noFrame => exact State.fieldExtract_of_noFrame ⟨h1, h4⟩ hs
  case outOfRange => exact State.fieldExtract_of_outOfRange ⟨h1, h4⟩ hs hend
  case result =>
    exact ⟨_, s.extractedRaw, State.fieldBits_frameBody hend, rfl,
      congrArg Host.Outcome.next (State.fieldExtract_of_inRange ⟨h1, h4⟩ hs hend)⟩

/-- Settles O42, path by path; FCNT holds the number of fields, of which a well-formed descriptor has at most 255. -/
theorem decodeFieldsResult : Obligations.DecodeFieldsResult := by
  refine ⟨decode_htwOf_write 0x0000#16 0x05#8, fun s => ⟨fun hd => congrArg Host.Outcome.next
    (State.decodeFields_of_unknown hd), fun d hd => ⟨fun hs => congrArg Host.Outcome.next ?noFrame,
      fun hs hop => congrArg Host.Outcome.next ?otherOpcode, fun hs hop hlen => congrArg Host.Outcome.next ?otherLength,
      fun hs hop hlen hend => congrArg Host.Outcome.next ?runsPast, fun hc hs hop hlen hend => ?fits⟩⟩⟩
  case noFrame => exact State.decodeFields_of_noFrame hd hs
  case otherOpcode => exact State.decodeFields_of_otherOpcode hd hs hop
  case otherLength => exact State.decodeFields_of_otherLength hd hs hop ((lengthDiffers_iff _ _).mpr hlen)
  all_goals
    have hsame : lengthDiffers d.fixed (s.rxbuf 2) = false := lengthDiffers_eq_false.mpr hlen
  case runsPast => exact State.decodeFields_of_runsPast hd hs hop hsame ((fieldRunsPast_iff _ _).mpr hend)
  case fits =>
    have hin : fieldRunsPast d s.frameLength = false := fieldRunsPast_eq_false.mpr hend
    refine ⟨s.decodeDescriptor d, congrArg Host.Outcome.next (State.decodeFields_of_fits hd hs hop hsame hin), rfl, ?_,
      fun i f hf k hk => s.bufByte_decodeDescriptor_entry hf hk, fun x hx => ?_⟩
    · exact Nat.mod_eq_of_lt (Nat.lt_succ_of_le (fields_length_le_of_lookup hc hd))
    · rw [State.bufByte_decodeDescriptor, if_neg hx]

/-- Settles O43: the bus shows the bytes of the entry, which are those of its parts. -/
theorem foutEntryReadsAsEntry : Obligations.FoutEntryReadsAsEntry := by
  intro s t d i f hc hd hf ht hok at' raw
  obtain rfl : s.decodeFields = t := Host.Outcome.next.inj ht
  obtain ⟨d', hd', hdec⟩ := State.decodeFields_of_ok hok
  obtain rfl : d = d' := Option.some.inj (hd.symm.trans hd')
  obtain ⟨hi, -⟩ := List.getElem?_eq_some_iff.mp hf
  have hlen := fields_length_le_of_lookup hc hd
  obtain ⟨-, h4, hshift, -⟩ := field_rules_of_catalogWf hc (lookup_eq_some hd).1 (List.mem_of_getElem? hf)
  have hbyte {k : Nat} {b : Byte} (hk : k < 16) (hb : (fieldEntry f s.frameBody).bytes[k]? = some b) : at' k = b := by
    rw [← Option.some_inj, ← hb, ← s.bufByte_decodeDescriptor_entry hf hk, ← hdec]
    exact congrArg some (memRead_fout (by omega) hk _)
  have hraw : (List.range 4).map (fun k => at' (4 + k)) = leBytes 4 (BitVec.ofInt 32 raw) :=
    List.map_congr_left fun k hk =>
      have hk := List.mem_range.mp hk
      hbyte (by omega) (FoutEntry.bytes_raw _ hk)
  have hscaled : (List.range 8).map (fun k => at' (8 + k)) = leBytes 8 (BitVec.ofInt 64 (raw * f.mant.toInt)) :=
    List.map_congr_left fun k hk =>
      have hk := List.mem_range.mp hk
      hbyte (by omega) (FoutEntry.bytes_scaled _ hk)
  refine ⟨hbyte (by omega) rfl, ?wid, ?sgn, ?shift, ?raw, ?scaled⟩
  case wid =>
    rw [hbyte (b := BitVec.ofNat 8 f.wid) (by omega) rfl]
    exact Nat.mod_eq_of_lt (by omega)
  case sgn =>
    rw [hbyte (b := if f.sgn then 0x01#8 else 0x00#8) (by omega) rfl]
    cases f.sgn <;> rfl
  case shift =>
    rw [hbyte (b := BitVec.ofNat 8 f.shift) (by omega) rfl]
    exact Nat.mod_eq_of_lt (by omega)
  case raw => rw [hraw, leValue_leBytes _ _ le_rfl]
  case scaled => rw [hscaled, leValue_leBytes _ _ le_rfl]

/-- Settles O44: the length check lets only frames of the fixed length through, and CAT_IN_FIXED puts every field inside
it. -/
theorem fixedLengthNeverOutOfRange : Obligations.FixedLengthNeverOutOfRange := by
  intro s t d n hc hd hfixed ht hstatus
  obtain rfl : s.decodeFields = t := Host.Outcome.next.inj ht
  by_cases hs : s.rxState = .done
  case neg => simp [State.decodeFields_of_noFrame hd hs] at hstatus
  by_cases hop : s.rxbuf 1 = s.arg
  case neg => simp [State.decodeFields_of_otherOpcode hd hs hop] at hstatus
  cases hlen : lengthDiffers d.fixed (s.rxbuf 2)
  case true => simp [State.decodeFields_of_otherLength hd hs hop hlen] at hstatus
  have hn : s.frameLength = n.toNat := congrArg BitVec.toNat (lengthDiffers_eq_false.mp hlen n hfixed)
  have hin : fieldRunsPast d s.frameLength = false := by
    refine fieldRunsPast_eq_false.mpr fun f hf => ?_
    obtain ⟨-, -, -, -, hfits⟩ := field_rules_of_catalogWf hc (lookup_eq_some hd).1 hf
    exact hn ▸ hfits n hfixed
  simp [State.decodeFields_of_fits hd hs hop hlen hin] at hstatus

end

section
/-! SUPPORT. FX and FDEC repeated: every transaction but CLR and RXB keeps the accepted frame, which is all that they
read beside their operands, and the statement about them (spec/44_fields.md R190). -/

open Sys2Proof Sys2Proof.Machine

namespace Sys2Proof.Machine

/-! ### Transactions that keep the accepted frame -/

/-- What FX and FDEC see of the receiver and of the configuration is the same in both states. -/
structure FrameKept (s t : State) : Prop where
  done_iff : t.rxState = .done ↔ s.rxState = .done
  catalog : t.catalog = s.catalog
  rxbuf : ∀ j, j < 260 → t.rxbuf j = s.rxbuf j

theorem FrameKept.trans {s t u : State} (h : FrameKept s t) (h' : FrameKept t u) : FrameKept s u where
  done_iff := h'.done_iff.trans h.done_iff
  catalog := h'.catalog.trans h.catalog
  rxbuf j hj := (h'.rxbuf j hj).trans (h.rxbuf j hj)

/-- RXEOF may close an open receiver, but into ERR. -/
theorem Effect.done_iff {s t : State} {i : Instr} (h : Effect s i t) (h1 : i ≠ .clr) (h2 : ∀ b, i ≠ .rxb b) :
    t.rxState = .done ↔ s.rxState = .done := by
  cases h with
  | truncate hd => simp [hd]
  | endDone | endErr => rfl
  | clear => exact absurd rfl h1
  | drop b | receive b => exact absurd rfl (h2 b)
  | _ => simp

theorem Effect.frameKept {s t : State} {i : Instr} (h : Effect s i t) (h1 : i ≠ .clr) (h2 : ∀ b, i ≠ .rxb b) :
    FrameKept s t where
  done_iff := h.done_iff h1 h2
  catalog := h.configuration_eq.1
  rxbuf j hj := by
    by_contra hne
    exact h2 _ (h.rxbuf_change hj hne).1

theorem frameKept_of_execAll {is : List Instr} (his : ∀ i ∈ is, i.wellFormed = true ∧ i ≠ .clr ∧ ∀ b, i ≠ .rxb b)
    {s t : State} (h : execAll is s = .next t) : FrameKept s t := by
  induction is generalizing s with
  | nil =>
    cases h
    exact ⟨Iff.rfl, rfl, fun _ _ => rfl⟩
  | cons i is ih =>
    obtain ⟨⟨hwf, hclr, hrxb⟩, his⟩ := List.forall_mem_cons.mp his
    cases hi : exec i s with
    | next u =>
      rw [execAll, hi] at h
      exact ((exec_effect_of_wellFormed hwf hi).frameKept hclr hrxb).trans (ih his h)
    | fault r => simp [execAll, hi] at h
    | refused r => simp [execAll, hi] at h

/-! ### The commands on the same frame -/

section
variable {s t : State} (h : FrameKept s t)
include h

theorem FrameKept.frameLength_eq : t.frameLength = s.frameLength :=
  State.frameLength_congr (h.rxbuf 2 (by omega))

theorem FrameKept.frameBody_eq : t.frameBody = s.frameBody := by
  have hlen := s.frameLength_le
  have hbody : t.bodyPrefix t.frameLength = s.bodyPrefix s.frameLength := by
    rw [h.frameLength_eq]
    exact State.bodyPrefix_congr fun i hi => h.rxbuf (4 + i) (by omega)
  exact hbody

/-- FDEC with the same expected opcode takes the same path. -/
theorem FrameKept.decodeFields (harg : t.arg = s.arg) :
    (∃ e, s.decodeFields = s.decodeFail e ∧ t.decodeFields = t.decodeFail e) ∨
      ∃ d, s.decodeFields = s.decodeDescriptor d ∧ t.decodeFields = t.decodeDescriptor d := by
  unfold State.decodeFields
  simp only [h.catalog, harg, h.rxbuf 1 (by omega), h.rxbuf 2 (by omega), h.frameLength_eq, ne_eq, h.done_iff]
  cases lookup s.catalog s.arg with
  | none => exact .inl ⟨_, rfl, rfl⟩
  | some d =>
    dsimp only
    split_ifs
    case neg => exact .inr ⟨d, rfl, rfl⟩
    all_goals exact .inl ⟨_, rfl, rfl⟩

/-- FX with the same offset and width takes the same path. -/
theorem FrameKept.fieldExtract (hoff : t.xOff = s.xOff) (hwid : t.xWid = s.xWid) :
    (∃ e, e ≠ .ok ∧ s.fieldExtract = s.raise e ∧ t.fieldExtract = t.raise e) ∨
      (s.fieldExtract = s.extractField ∧ t.fieldExtract = t.extractField) := by
  unfold State.fieldExtract State.offsetOperand State.widthOperand
  simp only [hoff, hwid, h.frameLength_eq, ne_eq, h.done_iff]
  split_ifs
  case neg => exact .inr ⟨rfl, rfl⟩
  all_goals exact .inl ⟨_, by decide, rfl, rfl⟩

theorem FrameKept.extractedRaw_eq (hoff : t.xOff = s.xOff) (hwid : t.xWid = s.xWid) (hsgn : t.xSgn = s.xSgn) :
    t.extractedRaw = s.extractedRaw := by
  simp only [State.extractedRaw, State.offsetOperand, State.widthOperand, h.frameBody_eq, hoff, hwid, hsgn]

/-- FDEC of the same descriptor writes the same entries. -/
theorem FrameKept.bufByte_decodeDescriptor_eq (d : Descriptor) {x : Nat} (hx : x < 16 * d.fields.length) :
    (t.decodeDescriptor d).bufByte (foutAddr 0 + x) = (s.decodeDescriptor d).bufByte (foutAddr 0 + x) := by
  have hin : foutAddr 0 ≤ foutAddr 0 + x ∧ foutAddr 0 + x < foutAddr 0 + 16 * d.fields.length := by omega
  rw [State.bufByte_decodeDescriptor, State.bufByte_decodeDescriptor, if_pos hin, if_pos hin, h.frameBody_eq]

end

end Sys2Proof.Machine

/-! ### The statement -/

/-- Settles O45: the transactions between keep the frame, on which each command takes the same path to the same
results. -/
theorem fieldDecodingIsIdempotent : Obligations.FieldDecodingIsIdempotent := by
  intro s s' is his hrun
  have hkept : FrameKept s s' := frameKept_of_execAll his hrun
  refine ⟨fun t u harg ht hu => ?fdec, fun t u hoff hwid hsgn hmant hshift ht hu => ?fx⟩
  case fdec =>
    obtain rfl : s.decodeFields = t := Host.Outcome.next.inj ht
    obtain rfl : s'.decodeFields = u := Host.Outcome.next.inj hu
    obtain ⟨e, hs, hs'⟩ | ⟨d, hs, hs'⟩ := hkept.decodeFields harg <;> rw [hs, hs']
    · exact ⟨rfl, rfl, fun x hx => absurd hx (Nat.not_lt_zero x)⟩
    · refine ⟨rfl, rfl, fun x hx => hkept.bufByte_decodeDescriptor_eq d (hx.trans_le ?_)⟩
      exact Nat.mul_le_mul_left 16 (Nat.mod_le _ _)
  case fx =>
    obtain rfl : s.fieldExtract = t := Host.Outcome.next.inj ht
    obtain rfl : s'.fieldExtract = u := Host.Outcome.next.inj hu
    obtain ⟨e, he, hs, hs'⟩ | ⟨hs, hs'⟩ := hkept.fieldExtract hoff hwid <;> rw [hs, hs']
    · exact ⟨rfl, fun hok => absurd hok he⟩
    · have hraw := hkept.extractedRaw_eq hoff hwid hsgn
      exact ⟨rfl, fun _ => by simp [hraw, hshift, State.mantissaOperand, hmant]⟩

end

section
/-! SUPPORT. The codes that a step can leave in STATUS and RXEC (spec/60_exceptions.md R238), and the statement about
them. -/

open Sys2Proof Sys2Proof.Machine

namespace Sys2Proof.Machine

/-- A verdict latches in RXEC the code it gives STATUS, or leaves RXEC (spec/43_receiver.md R152, R153). -/
theorem ReceiveVerdict.rxec_eq {s : State} {b sum : Byte} {q : RxState} {c e : StatusCode}
    (h : ReceiveVerdict s b q c sum e) : c = s.rxec ∨ c = e := by
  cases h with
  | badHeader | badBody => exact .inr rfl
  | header | goodHeader | body | accept => exact .inl rfl

namespace Effect

variable {s t : State} {i : Instr}

/-- No transaction puts a reserved code into RXEC. -/
theorem rxec_possible (h : Effect s i t) (hs : s.rxec.reserved = false) : t.rxec.reserved = false := by
  cases h with
  | clear | truncate => rfl
  | receive b q c sum e hn hv =>
    change c.reserved = false
    rcases hv.rxec_eq with rfl | rfl
    · exact hs
    · exact hv.status_possible
  | _ => simpa using hs

/-- A transaction leaves STATUS or writes a code that is not reserved; RXEOF in ERR writes the one that RXEC holds. -/
theorem status_eq_or_possible (h : Effect s i t) (hs : s.rxec.reserved = false) :
    t.status = s.status ∨ t.status.reserved = false := by
  cases h with
  | idle | read | writeIgnored | write => exact .inl (by simp)
  | illegalCommand | clear | truncate | endDone | encodeTooLarge | encodeRequest | extractField |
      decodeDescriptor | drop => exact .inr rfl
  | endErr => exact .inr hs
  | extractFail e he | decodeFail e he => exact .inr he
  | receive b q c sum e hn hv => exact .inr hv.status_possible

end Effect

end Sys2Proof.Machine

/-! ### The statement -/

/-- Settles O51: the idle bus keeps both registers, reset clears them, and no transaction writes a reserved code to
either. -/
theorem reservedCodesAreNeverWritten : Obligations.ReservedCodesAreNeverWritten := by
  intro s t hs h
  rcases step_effect h with rfl | ⟨rest, rfl⟩ | ⟨rest, i, he⟩
  · exact ⟨hs, fun _ => rfl⟩
  · exact ⟨rfl, fun hr => nomatch hr⟩
  · refine ⟨he.rxec_possible hs, fun hr => ?_⟩
    rcases he.status_eq_or_possible hs with hst | hst
    · exact hst
    · exact absurd hr (by simp [hst])

end

section
/-! SUPPORT. One step by what the host presents, the one fault that a step can stop with, and the statements about them
(spec/00_scope.md R6, spec/20_memory.md R78, spec/10_state.md R48). -/

open Sys2Proof Sys2Proof.Machine

namespace Sys2Proof.Machine

/-! ### A step by what the host presents -/

theorem step_of_illFormedCatalog {s : State} (hc : catalogWf s.catalog = false) :
    step s = .refused .illFormedCatalog := by
  simp [step, presented, hc]

section
variable {s : State} {rest : List HostEvent} (hc : catalogWf s.catalog = true)
include hc

/-- With nothing presented the bus is idle (spec/40_host_access.md R120). -/
theorem step_of_idleBus (hp : s.pending = []) : step s = .next s := by
  simp [step, presented, hc, hp, exec, execIdle]

theorem step_of_reset (hp : s.pending = .reset :: rest) : step s = .next (s.withPending rest).applyReset := by
  simp [step, presented, hc, hp]

theorem step_of_decode_ok {w : Htw} {i : Instr} (hp : s.pending = .transaction w :: rest) (hd : decode w = .ok i) :
    step s = exec i (s.withPending rest) := by
  simp [step, presented, hc, hp, hd]

theorem step_of_decode_error {w : Htw} {e : DecodeError} (hp : s.pending = .transaction w :: rest)
    (hd : decode w = .error e) : step s = .refused (.illegalTransaction e) := by
  simp [step, presented, hc, hp, hd]

end

/-! ### The one fault (log 5) -/

theorem receiveByte_overrun {s : State} (hn : 260 ≤ s.rxcnt.toNat) (hd : s.rxState ≠ .done) (he : s.rxState ≠ .err)
    (b : Byte) : receiveByte b s = .fault .rxBufferOverrun := by
  have hfull : ∀ t, storingStep s t = .fault .rxBufferOverrun := fun t => if_neg (Nat.not_lt.mpr hn)
  cases hs : s.rxState with
  | idle | hdr | body | ckb => simp only [receiveByte, hs, hfull]
  | done => exact absurd hs hd
  | err => exact absurd hs he

/-- A receive step faults in an open state past RXBUF, and in no other. -/
theorem receiveByte_eq_fault_iff {b : Byte} {s : State} {r : Fault} :
    receiveByte b s = .fault r ↔ 260 ≤ s.rxcnt.toNat ∧ s.rxState ≠ .done ∧ s.rxState ≠ .err := by
  constructor
  · intro h
    by_cases hclosed : s.rxState = .done ∨ s.rxState = .err
    · simp [receiveByte_closed hclosed] at h
    · obtain ⟨hd, he⟩ := not_or.mp hclosed
      refine ⟨Nat.not_lt.mp fun hn => ?_, hd, he⟩
      obtain ⟨q, c, sum, e, ht⟩ := receiveByte_open hn hd he b
      simp [ht] at h
  · rintro ⟨hn, hd, he⟩
    exact receiveByte_overrun hn hd he b

/-- Of all bus writes only a receive step can fault. -/
theorem memWrite_eq_fault {a : Addr} {v : Byte} {s : State} {r : Fault} (h : memWrite a v s = .fault r) :
    receiveByte v s = .fault r := by
  unfold memWrite at h
  split at h
  · cases h
  · split_ifs at h
    exact h

/-- Of all transactions only one that receives a byte can fault. -/
theorem exec_eq_fault {i : Instr} {s : State} {r : Fault} (h : exec i s = .fault r) :
    ∃ b, receiveByte b s = .fault r := by
  cases i with
  | rxb b => exact ⟨b, h⟩
  | wr a d => exact ⟨d, memWrite_eq_fault h⟩
  | idle | rd | illcmd | clr | rxeof | enc | fx | fdec => cases h

/-- A step that faults performs a transaction that faults. -/
theorem step_eq_fault {s : State} {r : Fault} (h : step s = .fault r) :
    ∃ rest i, exec i (s.withPending rest) = .fault r := by
  cases hc : catalogWf s.catalog with
  | false => simp [step_of_illFormedCatalog hc] at h
  | true =>
    match hp : s.pending with
    | [] => simp [step_of_idleBus hc hp] at h
    | .reset :: rest => simp [step_of_reset hc hp] at h
    | .transaction w :: rest =>
      cases hd : decode w with
      | ok i => exact ⟨rest, i, (step_of_decode_ok hc hp hd).symm.trans h⟩
      | error e => simp [step_of_decode_error hc hp hd] at h

/-! ### What the invariant says of RXCNT (spec/10_state.md R48) -/

namespace Inv

variable {s : State} (h : Inv s)
include h

/-- While the FSM is open RXBUF has room. -/
theorem rxcnt_lt_of_open (hd : s.rxState ≠ .done) (he : s.rxState ≠ .err) : s.rxcnt.toNat < 260 := by
  have hlen := s.frameLength_le
  have hr := h.receiver
  unfold ReceiverInv at hr
  cases hs : s.rxState <;> rw [hs] at hr
  case done => exact absurd hs hd
  case err => exact absurd hs he
  all_goals omega

theorem rxcnt_of_body (hs : s.rxState = .body) : 4 ≤ s.rxcnt.toNat := by
  have hr := h.receiver
  unfold ReceiverInv at hr
  rw [hs] at hr
  exact hr.2.2.1

theorem rxcnt_of_done (hs : s.rxState = .done) : s.rxcnt.toNat = 5 + s.frameLength := by
  have hr := h.receiver
  unfold ReceiverInv at hr
  rw [hs] at hr
  exact hr.2.1

theorem exec_ne_fault (i : Instr) (r : Fault) : exec i s ≠ .fault r := by
  intro hf
  obtain ⟨b, hb⟩ := exec_eq_fault hf
  obtain ⟨hn, hd, he⟩ := receiveByte_eq_fault_iff.mp hb
  exact Nat.not_lt.mpr hn (h.rxcnt_lt_of_open hd he)

end Inv

end Sys2Proof.Machine

/-! ### The statements -/

/-- Settles O49: a fault comes from a received byte past RXBUF, and under the invariant an open receiver has room. -/
theorem invariantRulesOutFaults : Obligations.InvariantRulesOutFaults := by
  intro s r h hf
  obtain ⟨rest, i, hi⟩ := step_eq_fault hf
  exact (h.withPending rest).exec_ne_fault i r hi

/-- Settles O30: RXB is the receive step. -/
theorem receiveFaultsOnlyPastBuffer : Obligations.ReceiveFaultsOnlyPastBuffer :=
  fun _ _ => receiveByte_eq_fault_iff

/-- Settles O7: the word is taken off the pending list and performed. -/
theorem stepPerformsDecodedTransaction : Obligations.StepPerformsDecodedTransaction :=
  fun _ _ _ _ hc hp hd => step_of_decode_ok hc hp hd

/-- Settles O8: the refusal carries the decoder's reason. -/
theorem stepRefusesUndecodableWord : Obligations.StepRefusesUndecodableWord :=
  fun _ _ _ _ hc hp hd => step_of_decode_error hc hp hd

/-- Settles O9: the idle bus performs IDLE. -/
theorem stepHoldsStateOnIdleBus : Obligations.StepHoldsStateOnIdleBus :=
  fun _ hc hp => step_of_idleBus hc hp

/-- Settles O10: the catalog is looked at before the pending events. -/
theorem stepRefusesIllFormedCatalog : Obligations.StepRefusesIllFormedCatalog :=
  fun _ hc => step_of_illFormedCatalog hc

/-- Settles O14: the record of the bytes read is the only field that changes. -/
theorem readGivesByteAndKeepsState : Obligations.ReadGivesByteAndKeepsState :=
  fun _ _ => ⟨_, rfl, rfl, List.getLast?_concat, fun _ => rfl⟩

/-- Settles O4: the decoder evaluated on each vector. -/
theorem decodeSampleWords : Obligations.DecodeSampleWords := by
  unfold Obligations.DecodeSampleWords
  decide

end

section
/-! SUPPORT. The state after reset as software reads it, and the statements about reset and configuration
(spec/70_reset_and_hazards.md R250 to R252). -/

open Sys2Proof Sys2Proof.Machine

namespace Sys2Proof.Machine

/-- After reset no buffer byte is written (log 2). -/
theorem State.bufByte_applyReset (s : State) (a : Nat) :
    s.applyReset.bufByte a = Config.unwrittenByte (s.epoch + 1) a := rfl

/-- No location shows the marker or the catalog (spec/10_state.md R47). -/
theorem memRead_configuration (a : Addr) (s : State) (m : Byte) (c : List Descriptor) :
    memRead a { s with respMarker := m, catalog := c } = memRead a s := rfl

/-- The number 1 has its one bit in byte 0. -/
theorem byteOf_one {n k : Nat} (hk : k ≠ 0) : byteOf (1#n) k = 0x00#8 := by
  apply BitVec.eq_of_toNat_eq
  have hone : (1#n).toNat ≤ 1 := by simpa using Nat.mod_le 1 (2 ^ n)
  have hlt : (1#n).toNat < 256 ^ k := hone.trans_lt (Nat.one_lt_pow hk (by decide))
  rw [byteOf_toNat, Nat.div_eq_of_lt hlt]
  rfl

/-- After reset every register byte is 0 but X_WID and the low byte of X_MANT (R250). -/
theorem State.locByte_reset {l : Loc} (hl : l.isBuffer = false) {k : Nat} (hwid : l ≠ .xWid)
    (hmant : l = .xMant → k ≠ 0) (a : Nat) : State.reset.locByte l k a = 0x00#8 := by
  cases l with
  | rxbuf | ebuf | txbuf | fout => cases hl
  | xWid => exact absurd rfl hwid
  | xMant => exact byteOf_one (hmant rfl)
  | rxcnt | eLen | txlen | xRaw | xScaled => exact BitVec.extractLsb'_zero
  | cmd | arg | status | rxst | rxec | rxd | eOpcode | xOff | xSgn | xShift | xRsh | fcnt => rfl

/-- The rows below the buffers, with those of X_WID and X_MANT. -/
theorem region_of_register : ∀ r ∈ addressMap, r.base < 0x0100 →
    r.loc.isBuffer = false ∧ (r.loc = .xWid → r.base = 0x0021 ∧ r.size = 1) ∧ (r.loc = .xMant → r.base = 0x0024) := by
  decide

/-- What software reads below the buffers after reset (spec/95_test_vectors.md HA-01, HA-02). -/
theorem memRead_reset {a : Addr} (ha : a.toNat < 0x0100) (hwid : a ≠ 0x0021#16) (hmant : a ≠ 0x0024#16) :
    memRead a State.reset = 0x00#8 := by
  cases hr : regionOf a with
  | none => simp only [memRead, hr]
  | some r =>
    obtain ⟨hm, h1, h2⟩ := regionOf_spec hr
    obtain ⟨hbuf, hxWid, hxMant⟩ := region_of_register r hm (h1.trans_lt ha)
    have hbyte : State.reset.locByte r.loc (a.toNat - r.base) a.toNat = 0x00#8 := by
      refine State.locByte_reset hbuf (fun hl => hwid ?_) (fun hl hk => hmant ?_) _
      · obtain ⟨hbase, hsize⟩ := hxWid hl
        exact BitVec.eq_of_toNat_eq (show a.toNat = 0x0021 by omega)
      · have hbase := hxMant hl
        exact BitVec.eq_of_toNat_eq (show a.toNat = 0x0024 by omega)
    rw [memRead_of_region hm h1 h2, hbyte, ite_self]

end Sys2Proof.Machine

/-! ### The statements -/

/-- Settles O12: a well-formed catalog is configured, and no address shows it or the marker. -/
theorem configuredBlockStartsAtReset : Obligations.ConfiguredBlockStartsAtReset := by
  intro m c hc
  have hconf : configure m c = .ok { State.reset with respMarker := m, catalog := c } := by
    simp only [configure, no_failure_of_catalogWf hc]
  refine ⟨_, hconf, rfl, rfl, rfl, fun a ha hwid hmant => ?_, rfl, rfl⟩
  rw [memRead_configuration]
  exact memRead_reset ha hwid hmant

/-- Settles O11: the step is `State.applyReset`, which keeps the fields named and leaves no buffer byte written. -/
theorem resetEventResetsEveryRegister : Obligations.ResetEventResetsEveryRegister := by
  intro s rest hc hp
  refine ⟨_, step_of_reset hc hp, ?_⟩
  simp [State.bufByte_applyReset]

end

section
/-! SUPPORT. Unwritten buffer bytes: the same state under another free value, what it reads the same, and the statement
about the transactions that read written bytes only (spec/93_implementation_defined.md U5; log 2). -/

open Sys2Proof Sys2Proof.Machine

namespace Sys2Proof.Machine

/-! ### The same state under another free value -/

/-- The state in which every unwritten buffer byte is the free value of the reset count `e` (log 2). -/
def State.withEpoch (s : State) (e : Nat) : State := { s with epoch := e }

section
variable (s : State) (e : Nat)

@[simp] theorem State.withEpoch_arg : (s.withEpoch e).arg = s.arg := rfl
@[simp] theorem State.withEpoch_rxState : (s.withEpoch e).rxState = s.rxState := rfl
@[simp] theorem State.withEpoch_rxcnt : (s.withEpoch e).rxcnt = s.rxcnt := rfl
@[simp] theorem State.withEpoch_catalog : (s.withEpoch e).catalog = s.catalog := rfl
@[simp] theorem State.withEpoch_respMarker : (s.withEpoch e).respMarker = s.respMarker := rfl

theorem State.storeReceived_withEpoch (b : Byte) :
    (s.withEpoch e).storeReceived b = (s.storeReceived b).withEpoch e := rfl

/-- RXEOF reads no buffer. -/
theorem State.endOfInput_withEpoch : (s.withEpoch e).endOfInput = s.endOfInput.withEpoch e := by
  simp only [State.endOfInput, State.withEpoch_rxState]
  cases s.rxState <;> rfl

/-- The checksum byte is compared with RXSUM, and no buffer is read. -/
theorem State.receiveChecksumByte_withEpoch (b : Byte) :
    (s.withEpoch e).receiveChecksumByte b = (s.receiveChecksumByte b).withEpoch e := by
  by_cases hb : b = s.rxsum
  · rw [State.receiveChecksumByte_of_eq hb, State.receiveChecksumByte_of_eq (s := s.withEpoch e) hb]
    rfl
  · rw [State.receiveChecksumByte_of_ne hb, State.receiveChecksumByte_of_ne (s := s.withEpoch e) hb]
    rfl

end

/-- A written byte does not depend on the free value. -/
theorem Written.bufByte_withEpoch {s : State} {a n i : Nat} (h : Written s a n) (hi : i < n) (e : Nat) :
    (s.withEpoch e).bufByte (a + i) = s.bufByte (a + i) := by
  obtain ⟨b, hb⟩ := Option.isSome_iff_exists.mp (h i hi)
  rw [State.bufByte_of_find? hb]
  exact State.bufByte_of_find? hb

namespace Inv

variable {s : State} (h : Inv s) (e : Nat)
include h

/-- The bytes that RXCNT counts are written. -/
theorem rxbuf_withEpoch {i : Nat} (hi : i < s.rxcnt.toNat) : (s.withEpoch e).rxbuf i = s.rxbuf i := by
  have hbyte := h.rxbuf_written.bufByte_withEpoch hi e
  rwa [rxbufAddr, Nat.add_zero] at hbyte

/-! ### The receive step -/

/-- After a byte is stored, it and the bytes counted before it are written. -/
theorem rxbuf_storeReceived_withEpoch (b : Byte) {i : Nat} (hi : i ≤ s.rxcnt.toNat) :
    ((s.storeReceived b).withEpoch e).rxbuf i = (s.storeReceived b).rxbuf i := by
  rw [← State.storeReceived_withEpoch, State.rxbuf_storeReceived, State.rxbuf_storeReceived, State.withEpoch_rxcnt]
  split_ifs with hlast
  · rfl
  · exact h.rxbuf_withEpoch e (by omega)

/-- The fourth byte's verdict reads the header only. -/
theorem receiveHeaderByte_withEpoch (hn : s.rxcnt.toNat < 260) (b : Byte) :
    (s.withEpoch e).receiveHeaderByte b = (s.receiveHeaderByte b).withEpoch e := by
  by_cases h3 : s.rxcnt.toNat < 3
  · rw [State.receiveHeaderByte_of_early h3, State.receiveHeaderByte_of_early (s := s.withEpoch e) h3]
    rfl
  · rw [State.receiveHeaderByte_of_fourth (by omega) hn,
      State.receiveHeaderByte_of_fourth (s := s.withEpoch e) (by simpa using h3) hn, State.storeReceived_withEpoch]
    have hb := fun i (hi : i < 4) => h.rxbuf_storeReceived_withEpoch e b (i := i) (by omega)
    simp only [State.judgeHeader, hb 0 (by omega), hb 1 (by omega), hb 2 (by omega), hb 3 (by omega),
      State.withEpoch_respMarker]
    split_ifs <;> rfl

/-- A body byte's step reads the length byte, which stands in the verified header. -/
theorem receiveBodyByte_withEpoch (hs : s.rxState = .body) (b : Byte) :
    (s.withEpoch e).receiveBodyByte b = (s.receiveBodyByte b).withEpoch e := by
  have h4 := h.rxcnt_of_body hs
  have hlen : ((s.withEpoch e).storeReceived b).frameLength = (s.storeReceived b).frameLength :=
    State.frameLength_congr (h.rxbuf_storeReceived_withEpoch e b (by omega))
  rw [State.receiveBodyByte_eq, State.receiveBodyByte_eq, hlen]
  rfl

theorem receiveByte_withEpoch {b : Byte} {t : State} (ht : receiveByte b s = .next t) :
    receiveByte b (s.withEpoch e) = .next (t.withEpoch e) := by
  obtain ⟨hs, rfl⟩ | ⟨hs, hn, rfl⟩ | ⟨hs, hn, rfl⟩ | ⟨hs, hn, rfl⟩ := receiveByte_cases ht
  · exact receiveByte_closed (s := s.withEpoch e) hs b
  · rw [← h.receiveHeaderByte_withEpoch e hn]
    exact receiveByte_header (s := s.withEpoch e) hs hn b
  · rw [← h.receiveBodyByte_withEpoch e hs]
    exact receiveByte_body (s := s.withEpoch e) hs hn b
  · rw [← State.receiveChecksumByte_withEpoch]
    exact receiveByte_checksum (s := s.withEpoch e) hs hn b

/-! ### FX and FDEC -/

section
variable (hs : s.rxState = .done)
include hs

/-- In DONE the whole frame is written. -/
theorem rxbuf_withEpoch_of_done {i : Nat} (hi : i < 5 + s.frameLength) : (s.withEpoch e).rxbuf i = s.rxbuf i :=
  h.rxbuf_withEpoch e (by rwa [h.rxcnt_of_done hs])

theorem frameLength_withEpoch : (s.withEpoch e).frameLength = s.frameLength :=
  State.frameLength_congr (h.rxbuf_withEpoch_of_done e hs (by omega))

theorem frameBody_withEpoch : (s.withEpoch e).frameBody = s.frameBody := by
  have hbody : (s.withEpoch e).bodyPrefix s.frameLength = s.bodyPrefix s.frameLength :=
    State.bodyPrefix_congr fun i hi => h.rxbuf_withEpoch_of_done e hs (by omega)
  rw [State.frameBody, h.frameLength_withEpoch e hs]
  exact hbody

theorem extractField_withEpoch : (s.withEpoch e).extractField = s.extractField.withEpoch e := by
  have hraw : (s.withEpoch e).extractedRaw = s.extractedRaw := by
    rw [State.extractedRaw, h.frameBody_withEpoch e hs]
    rfl
  rw [State.extractField, hraw]
  rfl

theorem decodeDescriptor_withEpoch (d : Descriptor) :
    (s.withEpoch e).decodeDescriptor d = (s.decodeDescriptor d).withEpoch e := by
  rw [State.decodeDescriptor, h.frameBody_withEpoch e hs]
  rfl

end

/-- FX reads the frame only in DONE. -/
theorem fieldExtract_withEpoch : (s.withEpoch e).fieldExtract = s.fieldExtract.withEpoch e := by
  by_cases hw : 1 ≤ s.xWid.toNat ∧ s.xWid.toNat ≤ 4
  · by_cases hs : s.rxState = .done
    · have hlen := h.frameLength_withEpoch e hs
      by_cases hend : s.xOff.toNat + s.xWid.toNat ≤ s.frameLength
      · rw [State.fieldExtract_of_inRange hw hs hend,
          State.fieldExtract_of_inRange (s := s.withEpoch e) hw hs (hlen ▸ hend), h.extractField_withEpoch e hs]
      · have hend' := Nat.not_le.mp hend
        rw [State.fieldExtract_of_outOfRange hw hs hend',
          State.fieldExtract_of_outOfRange (s := s.withEpoch e) hw hs (hlen ▸ hend')]
        rfl
    · rw [State.fieldExtract_of_noFrame hw hs, State.fieldExtract_of_noFrame (s := s.withEpoch e) hw hs]
      rfl
  · rw [State.fieldExtract_of_badWidth hw, State.fieldExtract_of_badWidth (s := s.withEpoch e) hw]
    rfl

/-- FDEC reads the frame only in DONE. -/
theorem decodeFields_withEpoch : (s.withEpoch e).decodeFields = s.decodeFields.withEpoch e := by
  cases hd : lookup s.catalog s.arg with
  | none =>
    rw [State.decodeFields_of_unknown hd, State.decodeFields_of_unknown (s := s.withEpoch e) hd]
    rfl
  | some d =>
    by_cases hs : s.rxState = .done
    · have hbuf := fun i (hi : i < 5) => h.rxbuf_withEpoch_of_done e hs (i := i) (by omega)
      simp only [State.decodeFields, State.withEpoch_catalog, State.withEpoch_arg, State.withEpoch_rxState, hd,
        hbuf 1 (by omega), hbuf 2 (by omega), h.frameLength_withEpoch e hs, h.decodeDescriptor_withEpoch e hs]
      split_ifs <;> rfl
    · rw [State.decodeFields_of_noFrame hd hs, State.decodeFields_of_noFrame (s := s.withEpoch e) hd hs]
      rfl

end Inv

end Sys2Proof.Machine

/-! ### The statement -/

/-- Settles O55: CLR and RXEOF read no buffer, RXB reads the header that it has stored, and FX and FDEC read the frame
only in DONE, where RXCNT counts all of it. -/
theorem unwrittenBytesDoNotMatter : Obligations.UnwrittenBytesDoNotMatter := by
  intro i s t e h hi ht
  obtain rfl | rfl | rfl | rfl | ⟨b, rfl⟩ := hi
  · obtain rfl := Host.Outcome.next.inj ht
    exact congrArg Host.Outcome.next (h.fieldExtract_withEpoch e)
  · obtain rfl := Host.Outcome.next.inj ht
    exact congrArg Host.Outcome.next (h.decodeFields_withEpoch e)
  · obtain rfl := Host.Outcome.next.inj ht
    exact congrArg Host.Outcome.next (s.endOfInput_withEpoch e)
  · obtain rfl := Host.Outcome.next.inj ht
    rfl
  · exact h.receiveByte_withEpoch e ht

end
